-- ==== Sys2Proof/Word.lean ====
section
/-! DEFINITION. The types every rule is written in (spec/00_scope.md R10): bytes, words, blocks, columns and the
4×4 byte matrix.  Their operations stand in `Machine/ByteMatrix.lean`. -/

namespace Sys2Proof

/-- `Byte` of R10: an 8-bit unsigned value. -/
abbrev Byte := BitVec 8

/-- `Word` of R10: a 32-bit unsigned value, one bus register. -/
abbrev Word := BitVec 32

/-- `Block` of R10: exactly 16 bytes, `b[0]` first. -/
abbrev Block := Vector Byte 16

/-- `Column` of R10: the vector `(a0, a1, a2, a3)`, `a0` is row 0. -/
structure Column where
  a0 : Byte
  a1 : Byte
  a2 : Byte
  a3 : Byte
deriving DecidableEq, Repr, Inhabited

/-- `Matrix` of R10, the source's Byte Matrix: four columns of four bytes (R125: always exactly 16 bytes).
Named `ByteMatrix` because the library has a `Matrix` of its own. -/
structure ByteMatrix where
  c0 : Column
  c1 : Column
  c2 : Column
  c3 : Column
deriving DecidableEq, Repr, Inhabited

end Sys2Proof
end

