-- ==== Sys2Proof/Syntax.lean ====
section
/-! DEFINITION. The commands of the engine (spec/30_encoding.md R94), the analogue of instructions (00_scope.md R12). -/

namespace Sys2Proof

/-- One constructor per row of the opcode map (R94).  `LEN` and `RKIDX` are unsigned integers 0..15 (R92, R93);
`WellFormed.lean` checks the bound. -/
inductive Instr where
  /-- KEY_EXPAND, R186. -/
  | keyExpand
  /-- CHAIN_RESET, R240. -/
  | chainReset
  /-- ENCRYPT, R236. -/
  | encrypt
  /-- DECRYPT, R237. -/
  | decrypt
  /-- ENCRYPT_FINAL, R239: `len` is the number of leading bytes of DIN that are plaintext. -/
  | encryptFinal (len : Nat)
  /-- SUB_BYTES, R155. -/
  | subBytes
  /-- INV_SUB_BYTES, R156. -/
  | invSubBytes
  /-- SHIFT_ROWS, R157. -/
  | shiftRows
  /-- INV_SHIFT_ROWS, R158. -/
  | invShiftRows
  /-- MIX_COLUMNS, R159. -/
  | mixColumns
  /-- INV_MIX_COLUMNS, R160. -/
  | invMixColumns
  /-- ADD_ROUND_KEY, R162: `rkidx` is the index into the round-key store. -/
  | addRoundKey (rkidx : Nat)
deriving DecidableEq, Repr

end Sys2Proof
end

