-- ==== Sys2Proof/WellFormed.lean ====
section
/-! DEFINITION. Which commands have an encoding (spec/30_encoding.md R92, R93): the two 4-bit operands. -/

namespace Sys2Proof

/-- `LEN` and `RKIDX` are unsigned integers 0..15 (R92, R93); no other command has an operand. -/
def Instr.wf : Instr → Bool
  | .keyExpand => true
  | .chainReset => true
  | .encrypt => true
  | .decrypt => true
  | .encryptFinal len => decide (len ≤ 15)
  | .subBytes => true
  | .invSubBytes => true
  | .shiftRows => true
  | .invShiftRows => true
  | .mixColumns => true
  | .invMixColumns => true
  | .addRoundKey rkidx => decide (rkidx ≤ 15)

end Sys2Proof
end

