-- ==== Sys2Proof/Decode.lean ====
section
/-! DEFINITION. Decoding a command word (spec/30_encoding.md R90 to R96) and the encoder (R97).  A command is exactly one
32-bit word (R96); there is no instruction fetch and so no byte order to settle here (R62). -/

namespace Sys2Proof

/-- `OP`, bits 7:0 (R90). -/
def opField (w : Word) : Nat := (w.extractLsb' 0 8).toNat

/-- `LEN`, bits 11:8, zero-extended (R92). -/
def lenField (w : Word) : Nat := (w.extractLsb' 8 4).toNat

/-- `RKIDX`, bits 19:16, zero-extended (R93). -/
def rkidxField (w : Word) : Nat := (w.extractLsb' 16 4).toNat

/-- One row of the opcode map (R94): a word belongs to it when `(w & mask) = value` (R91). -/
structure OpcodeRow where
  mnemonic : String
  value : Word
  mask : Word
  build : Word → Instr

/-- Is `w` a word of the row `r` (R91)? -/
def rowMatches (r : OpcodeRow) (w : Word) : Bool := w &&& r.mask == r.value

/-- The opcode map of R94, row by row. -/
def opcodeMap : List OpcodeRow :=
  [ ⟨"KEY_EXPAND",     0x00000001#32, 0xFFFFFFFF#32, fun _ => .keyExpand⟩,
    ⟨"CHAIN_RESET",    0x00000002#32, 0xFFFFFFFF#32, fun _ => .chainReset⟩,
    ⟨"ENCRYPT",        0x00000010#32, 0xFFFFFFFF#32, fun _ => .encrypt⟩,
    ⟨"DECRYPT",        0x00000011#32, 0xFFFFFFFF#32, fun _ => .decrypt⟩,
    ⟨"ENCRYPT_FINAL",  0x00000012#32, 0xFFFFF0FF#32, fun w => .encryptFinal (lenField w)⟩,
    ⟨"SUB_BYTES",      0x00000020#32, 0xFFFFFFFF#32, fun _ => .subBytes⟩ ] ++
  [ ⟨"INV_SUB_BYTES",  0x00000021#32, 0xFFFFFFFF#32, fun _ => .invSubBytes⟩,
    ⟨"SHIFT_ROWS",     0x00000022#32, 0xFFFFFFFF#32, fun _ => .shiftRows⟩,
    ⟨"INV_SHIFT_ROWS", 0x00000023#32, 0xFFFFFFFF#32, fun _ => .invShiftRows⟩,
    ⟨"MIX_COLUMNS",    0x00000024#32, 0xFFFFFFFF#32, fun _ => .mixColumns⟩,
    ⟨"INV_MIX_COLUMNS", 0x00000025#32, 0xFFFFFFFF#32, fun _ => .invMixColumns⟩,
    ⟨"ADD_ROUND_KEY",  0x00000026#32, 0xFFF0FFFF#32, fun w => .addRoundKey (rkidxField w)⟩ ]

/-- Why a word is no command, the cases of R95.  Every one of them is reported as E_ILLEGAL_CMD. -/
inductive DecodeReject where
  /-- a bit of 31:20 or 15:12 is set -/
  | reservedBits
  /-- an `OP` value that is not in the opcode map -/
  | unassignedOp
  /-- bits 11:8 are non-zero and `OP` is not ENCRYPT_FINAL -/
  | strayLen
  /-- bits 19:16 are non-zero and `OP` is not ADD_ROUND_KEY -/
  | strayRkidx
deriving DecidableEq, Repr

/-- The `OP` values of R94. -/
def assignedOps : List Nat :=
  [0x01, 0x02, 0x10, 0x11, 0x12, 0x20, 0x21, 0x22, 0x23, 0x24, 0x25, 0x26]

/-- The first case of R95 that an unmatched word falls under. -/
def rejectReason (w : Word) : DecodeReject :=
  if w &&& 0xFFF0F000#32 ≠ 0#32 then .reservedBits
  else if opField w ∉ assignedOps then .unassignedOp
  else if lenField w ≠ 0 ∧ opField w ≠ 0x12 then .strayLen
  else .strayRkidx

/-- R91: the row that matches `w`, or the reason why none does (R95). -/
def decode (w : Word) : Except DecodeReject Instr :=
  match opcodeMap.find? (fun r => rowMatches r w) with
  | some r => .ok (r.build w)
  | none => .error (rejectReason w)

/-- R97: the word of a command, `match | (len << 8)` or `match | (idx << 16)`. -/
def encode : Instr → Word
  | .keyExpand => 0x00000001#32
  | .chainReset => 0x00000002#32
  | .encrypt => 0x00000010#32
  | .decrypt => 0x00000011#32
  | .encryptFinal len => 0x00000012#32 ||| (BitVec.ofNat 32 len <<< 8)
  | .subBytes => 0x00000020#32
  | .invSubBytes => 0x00000021#32
  | .shiftRows => 0x00000022#32
  | .invShiftRows => 0x00000023#32
  | .mixColumns => 0x00000024#32
  | .invMixColumns => 0x00000025#32
  | .addRoundKey rkidx => 0x00000026#32 ||| (BitVec.ofNat 32 rkidx <<< 16)

/-- The command word whose bits the opcode table numbers `w`: the table gives every row 32 bits, and a command is one
32-bit word (R90), bit 0 its least significant bit (R9). -/
def tableWord (nbits w : Nat) : Word := BitVec.ofNat 32 (w % 2 ^ nbits)

/-- What the decoder reads from a word numbered as `spec/opcode_table.json` numbers it. -/
def decodeTableWord (nbits w : Nat) : Option Instr :=
  match decode (tableWord nbits w) with
  | .ok i => some i
  | .error _ => none

end Sys2Proof
end

