-- ==== Sys2Proof/Config.lean ====
section
/-! DEFINITION. What one implementation fixes and the spec leaves open (00_scope.md R7; 93 U3, U4, U10, U19), each an
opaque constant: a claim about the model holds for every value of it. -/

namespace Sys2Proof.Config

/-- Which 256-byte page of the bus holds the register window. -/
opaque basePage : Nat

/-- `BASE` (R7, R66): the base bus address of the register window, an open parameter that is a multiple of 256. -/
def base : Nat := 256 * basePage

/-- FREE VALUE (log 5): the data a read returns where the spec says "any value": DOUT while `BUSY = 1`
(R316, 93 U4) and any register while `rst` is asserted (R312, 93 U3).  Applied to the draw counter. -/
opaque freeWord : Nat → Word

/-- FREE VALUE (log 6): a round-key entry the spec leaves unspecified (R40, 93 U10).  Applied to the draw counter. -/
opaque freeMatrix : Nat → ByteMatrix

/-- FREE VALUE (log 6): the round count the spec leaves unspecified after `rst` (R41, 93 U10).  Applied to the draw
counter. -/
opaque freeNr : Nat → BitVec 4

end Sys2Proof.Config
end

