-- ==== Sys2Proof/Machine/State.lean ====
section
/-! DEFINITION. The state of the engine (spec/10_state.md R20: "exactly the following; nothing else is state"), the host
side the model adds to it (00_scope.md R8: the host is the other agent), the reasons a step can stop, and the state after
reset (R48). -/

namespace Sys2Proof.Machine

/-- `CTRL.MODE` (R23, R24): 0 = ECB, 1 = CBC. -/
inductive Mode where
  | ecb
  | cbc
deriving DecidableEq, Repr

/-- `CTRL` (R23).  Its reserved bits (3 and 31:6) read as 0 and ignore what is written (R27), so they are not state;
`Flags.lean` packs and unpacks the register. -/
structure Ctrl where
  /-- bit 0 -/
  mode : Mode
  /-- bits 2:1; any 2-bit code is stored (R25) -/
  keysize : BitVec 2
  /-- bit 4 -/
  ieDone : Bool
  /-- bit 5 -/
  ieErr : Bool
deriving DecidableEq, Repr

/-- `STATUS` (R28).  Its reserved bits 31:8 read as 0 (R28), so they are not state; `Flags.lean` packs the register. -/
structure Status where
  /-- bit 0 (R29) -/
  busy : Bool
  /-- bit 1 (R30) -/
  done : Bool
  /-- bit 2 (R31) -/
  err : Bool
  /-- bit 3 (R34) -/
  keyValid : Bool
  /-- bits 7:4 (R31, 60_exceptions.md R270) -/
  errcode : BitVec 4
deriving DecidableEq, Repr

/-- The engine errors of 60_exceptions.md R270. -/
inductive EngineError where
  | illegalCmd
  | keySize
  | noKey
  | busy
  | rkIdx
deriving DecidableEq, Repr

/-- The registers of the window (R20); `reserved` is every other offset (20_memory.md R68). -/
inductive Reg where
  | ctrl
  | status
  | cmd
  | key (w : Fin 8)
  | din (w : Fin 4)
  | dout (w : Fin 4)
  | reserved
deriving DecidableEq, Repr

/-- One host bus access: a bus address and a width in bytes (20_memory.md R63; 00_scope.md R11 `MemRead`, `MemWrite`). -/
inductive Access where
  | read (addr width : Nat)
  | write (addr width : Nat) (v : Word)
deriving DecidableEq, Repr

/-- How the bus slave answers an access (20_memory.md R63). -/
inductive Answer where
  /-- a read's value -/
  | data (w : Word)
  /-- a write was taken (also when the register drops it) -/
  | written
  /-- the error response to a width or alignment that is not admitted (R63, 93 U1): never a value -/
  | busError
  /-- the address is outside the window: the access is not this slave's (R67, log 8) -/
  | notSelected
deriving DecidableEq, Repr

/-- One access together with its answer. -/
structure Transaction where
  access : Access
  answer : Answer
deriving DecidableEq, Repr

/-- What moves next (R8, 70_reset_and_hazards.md R310, R315): the engine, one host access, or a change of the reset
input `rst`. -/
inductive Turn where
  | engine
  | host (a : Access)
  | assertRst
  | releaseRst
deriving DecidableEq, Repr

/-- The state of the engine (R20), and after it the model's own fields for the host side and the free values. -/
structure State where
  /-- `CTRL`, offset 0x00 (R23) -/
  ctrl : Ctrl
  /-- `STATUS`, offset 0x04 (R28) -/
  status : Status
  /-- `KEY0`..`KEY7`, offsets 0x10..0x2C (R37) -/
  key : Vector Word 8
  /-- `DIN0`..`DIN3`, offsets 0x30..0x3C (R38) -/
  din : Vector Word 4
  /-- `DOUT0`..`DOUT3`, offsets 0x40..0x4C (R39) -/
  dout : Vector Word 4
  /-- `RK[0]`..`RK[14]`, internal (R40) -/
  rk : Vector ByteMatrix 15
  /-- `NR`, internal, 4 bits (R41) -/
  nr : BitVec 4
  /-- `CV`, internal (R42) -/
  cv : ByteMatrix
  /-- `PEND`, internal (R43) -/
  pend : Word
  /-- the level of the reset input `rst` (70_reset_and_hazards.md R310, R312): an input, not state of R20 -/
  rst : Bool
  /-- the model's own (log 1): which agent moves next and what the host does -/
  schedule : List Turn
  /-- the model's own (log 2): the host's accesses so far with their answers, newest first -/
  bus : List Transaction
  /-- the model's own (log 4): how many free values have been drawn -/
  draws : Nat
deriving DecidableEq, Repr

/-- Reasons a step stops the machine. -/
inductive Fault where
  /-- Raised by ADD_ROUND_KEY when `RKIDX <= NR` names an entry the 15-entry round-key store does not have (00_scope.md
  R7): `RKIDX = NR = 15`, in states no run reaches (log 7).  Safe: the model stops. -/
  | noSuchRoundKey
deriving DecidableEq, Repr

/-- Reasons the model gives no meaning. -/
inductive Refusal where
  /-- Raised by `exec` for a command that has no meaning yet.  Safe: the model stops. -/
  | notModelled (mnemonic : String)
  /-- Raised by ENCRYPT, DECRYPT and ENCRYPT_FINAL when `KEY_VALID = 1` and `NR` is neither 10 nor 14
  (43_round_engine.md R212, 93 U9), in states no run reaches (log 7).  Safe: the model stops. -/
  | roundKeysOutOfDomain
deriving DecidableEq, Repr

/-- What a step or a meaning answers. -/
abbrev Result := Host.Outcome State Fault Refusal

/-- `STATUS` after reset (R28, R48). -/
def Status.reset : Status :=
  { busy := false, done := false, err := false, keyValid := false, errcode := 0 }

/-- `CTRL` after reset (R23, R48). -/
def Ctrl.reset : Ctrl :=
  { mode := .ecb, keysize := 0, ieDone := false, ieErr := false }

/-- The all-zero matrix `Z` (40_byte_matrix.md R126). -/
def zeroMatrix : ByteMatrix :=
  ⟨⟨0, 0, 0, 0⟩, ⟨0, 0, 0, 0⟩, ⟨0, 0, 0, 0⟩, ⟨0, 0, 0, 0⟩⟩

/-- The machine right after reset (R48).  `RK` and `NR` are unspecified there: DESIGN CHOICE, zero (log 3).  The
schedule, the bus log and the draw counter are the model's own and start empty (log 1, 2, 4). -/
def State.reset : State where
  ctrl := Ctrl.reset
  status := Status.reset
  key := Vector.replicate 8 0
  din := Vector.replicate 4 0
  dout := Vector.replicate 4 0
  rk := Vector.replicate 15 zeroMatrix
  nr := 0
  cv := zeroMatrix
  pend := 0
  rst := false
  schedule := []
  bus := []
  draws := 0

end Sys2Proof.Machine
end

