-- ==== Sys2Proof/Machine/Flags.lean ====
section
/-! DEFINITION. The control and status registers: how they pack into words, every way STATUS is written (spec/10_state.md
R23 to R37, R46; spec/60_exceptions.md R270, R278, R281), and the interrupt output (R44, R283). -/

namespace Sys2Proof.Machine

/-- `CTRL.MODE` of a written word (R23). -/
def modeOfBit (b : Bool) : Mode := if b then .cbc else .ecb

/-- The bit `CTRL.MODE` reads as (R23). -/
def modeBit (m : Mode) : Bool :=
  match m with
  | .ecb => false
  | .cbc => true

/-- The register word in which only bit `i` may be set, and is if `b` holds. -/
def bitAt (i : Nat) (b : Bool) : Word := (BitVec.ofBool b).setWidth 32 <<< i

/-- A host write of `v` to CTRL stores `v & 0x00000037` (R23): the fields of `v`, its reserved bits dropped (R27). -/
def ctrlOfWord (v : Word) : Ctrl where
  mode := modeOfBit (v.getLsbD 0)
  keysize := v.extractLsb' 1 2
  ieDone := v.getLsbD 4
  ieErr := v.getLsbD 5

/-- The word CTRL reads as (R23, R27). -/
def ctrlWord (c : Ctrl) : Word :=
  bitAt 0 (modeBit c.mode) ||| (c.keysize.setWidth 32 <<< 1) ||| bitAt 4 c.ieDone ||| bitAt 5 c.ieErr

/-- The word STATUS reads as (R28). -/
def statusWord (st : Status) : Word :=
  bitAt 0 st.busy ||| bitAt 1 st.done ||| bitAt 2 st.err ||| bitAt 3 st.keyValid ||| (st.errcode.setWidth 32 <<< 4)

/-- The code of an engine error (60_exceptions.md R270). -/
def errorCode (e : EngineError) : BitVec 4 :=
  match e with
  | .illegalCmd => 1
  | .keySize => 2
  | .noKey => 3
  | .busy => 4
  | .rkIdx => 5

/-- STATUS at an accepted CMD write (R36). -/
def statusAccepted (st : Status) : Status := { st with busy := true, done := false }

/-- STATUS at the end of a successful command (R33). -/
def statusCompleted (st : Status) : Status := { st with busy := false, done := true }

/-- STATUS at the end of a command that raises `e` (60_exceptions.md R281): E_KEYSIZE also clears KEY_VALID. -/
def statusRaised (e : EngineError) (st : Status) : Status where
  busy := false
  done := true
  err := true
  keyValid := if e = .keySize then false else st.keyValid
  errcode := errorCode e

/-- STATUS at a host write dropped with E_BUSY (60_exceptions.md R278): BUSY and DONE are unaffected. -/
def statusBusyError (st : Status) : Status := { st with err := true, errcode := errorCode .busy }

/-- STATUS at an accepted KEYn write (R37). -/
def statusKeyWritten (st : Status) : Status := { st with keyValid := false }

/-- STATUS at a successful KEY_EXPAND, before `complete()` (42_key_schedule.md R186). -/
def statusKeyExpanded (st : Status) : Status := { st with keyValid := true }

/-- STATUS at a host write of `v` to it (R35): write-1-to-clear on DONE (bit 1) and on ERR (bit 2), which clears ERRCODE
with it; the other bits of `v` are ignored. -/
def statusWriteClear (v : Word) (st : Status) : Status where
  busy := st.busy
  done := if v.getLsbD 1 then false else st.done
  err := if v.getLsbD 2 then false else st.err
  keyValid := st.keyValid
  errcode := if v.getLsbD 2 then 0 else st.errcode

/-- The interrupt output, a level and a function of state only (R44, 60_exceptions.md R283). -/
def State.irq (s : State) : Bool :=
  (s.status.done && s.ctrl.ieDone) || (s.status.err && s.ctrl.ieErr)

end Sys2Proof.Machine
end

