-- ==== Sys2Proof/Machine/ByteMatrix.lean ====
section
/-! DEFINITION. The Byte Matrix (spec/40_byte_matrix.md R120 to R130): load, column, combine, serialize, and the packing of
block bytes into register words (20_memory.md R60). -/

namespace Sys2Proof.Machine

/-- Entry `r` of a column: `a0` is row 0 (00_scope.md R10). -/
def colByte (a : Column) (r : Fin 4) : Byte :=
  match r with
  | 0 => a.a0
  | 1 => a.a1
  | 2 => a.a2
  | 3 => a.a3

/-- `column(S, i)` (R121); the index is a `Fin 4`, so none is out of range (93 U2). -/
def column (S : ByteMatrix) (i : Fin 4) : Column :=
  match i with
  | 0 => S.c0
  | 1 => S.c1
  | 2 => S.c2
  | 3 => S.c3

/-- `setColumn(S, v, i)` (R122). -/
def setColumn (S : ByteMatrix) (v : Column) (i : Fin 4) : ByteMatrix :=
  match i with
  | 0 => { S with c0 := v }
  | 1 => { S with c1 := v }
  | 2 => { S with c2 := v }
  | 3 => { S with c3 := v }

/-- `S[r][c]`, row `r`, column `c` (00_scope.md R10). -/
def entry (S : ByteMatrix) (r c : Fin 4) : Byte := colByte (column S c) r

/-- The matrix whose entry at row `r`, column `c` is `f r c`. -/
def matrixOf (f : Fin 4 → Fin 4 → Byte) : ByteMatrix :=
  ⟨⟨f 0 0, f 1 0, f 2 0, f 3 0⟩, ⟨f 0 1, f 1 1, f 2 1, f 3 1⟩,
   ⟨f 0 2, f 1 2, f 2 2, f 3 2⟩, ⟨f 0 3, f 1 3, f 2 3, f 3 3⟩⟩

/-- `load(b)`: `S[r][c] = b[4c + r]` (R120). -/
def load (b : Block) : ByteMatrix :=
  matrixOf fun r c => b[4 * c.val + r.val]

/-- `serialize(S)`: `o[p] = S[p mod 4][p div 4]` (R127, 90_conflicts.md C1: column-major). -/
def serialize (S : ByteMatrix) : Block :=
  Vector.ofFn fun p => entry S (Fin.ofNat 4 (p.val % 4)) (Fin.ofNat 4 (p.val / 4))

/-- `combine(S, T)`: element-wise XOR (R123). -/
def combine (S T : ByteMatrix) : ByteMatrix :=
  matrixOf fun r c => entry S r c ^^^ entry T r c

/-- `combine(S, q)` for a flat block `q`: byte `p` goes into `S[p mod 4][p div 4]` (R124). -/
def combineBlock (S : ByteMatrix) (q : Block) : ByteMatrix :=
  matrixOf fun r c => entry S r c ^^^ q[4 * c.val + r.val]

/-- Byte `i` of a register word, most significant first: bits `[31-8i : 24-8i]` (20_memory.md R60). -/
def wordByte (w : Word) (i : Nat) : Byte := w.extractLsb' (24 - 8 * i) 8

/-- The register word of four block bytes, the first in bits 31:24 (20_memory.md R60, 10_state.md R39). -/
def packWord (b0 b1 b2 b3 : Byte) : Word :=
  (b0.setWidth 32 <<< 24) ||| (b1.setWidth 32 <<< 16) ||| (b2.setWidth 32 <<< 8) ||| b3.setWidth 32

/-- The block held in four registers: byte `4w + i` is byte `i` of register `w` (20_memory.md R60, 10_state.md R38). -/
def blockOfWords (v : Vector Word 4) : Block :=
  Vector.ofFn fun p => wordByte v[p.val / 4] (p.val % 4)

/-- The four register words of a block (10_state.md R39 `set_dout`). -/
def wordsOfBlock (o : Block) : Vector Word 4 :=
  Vector.ofFn fun w => packWord o[4 * w.val] o[4 * w.val + 1] o[4 * w.val + 2] o[4 * w.val + 3]

/-- Block `i` of a byte sequence: its bytes `16i .. 16i+15` (42_key_schedule.md R183, 44_mode_layer.md R241).  Callers keep
to sequences that have those bytes. -/
def blockAt (q : List Byte) (i : Nat) : Block :=
  Vector.ofFn fun p => q.getD (16 * i + p.val) 0

end Sys2Proof.Machine
end

