-- ==== Sys2Proof/Machine/Transforms.lean ====
section
/-! DEFINITION. The transform functions (spec/41_state_transforms.md R145 to R151): pure functions on a matrix. -/

namespace Sys2Proof.Machine

/-- `substitute(S)[r][c] = SBOX[S[r][c]]` (R145). -/
def substitute (S : ByteMatrix) : ByteMatrix :=
  matrixOf fun r c => sbox (entry S r c)

/-- `inverseSubstitute(S)[r][c] = INV_SBOX[S[r][c]]` (R146). -/
def inverseSubstitute (S : ByteMatrix) : ByteMatrix :=
  matrixOf fun r c => invSbox (entry S r c)

/-- `shiftRows(S)[r][c] = S[r][(c + r) mod 4]` (R147); addition in `Fin 4` is modulo 4. -/
def shiftRows (S : ByteMatrix) : ByteMatrix :=
  matrixOf fun r c => entry S r (c + r)

/-- `inverseShiftRows(S)[r][c] = S[r][(c + 4 - r) mod 4]` (R148); subtraction in `Fin 4` is modulo 4. -/
def inverseShiftRows (S : ByteMatrix) : ByteMatrix :=
  matrixOf fun r c => entry S r (c - r)

/-- One column of `mixColumns` (R149). -/
def mixColumn (a : Column) : Column where
  a0 := gmul a.a0 2 ^^^ gmul a.a1 3 ^^^ a.a2 ^^^ a.a3
  a1 := a.a0 ^^^ gmul a.a1 2 ^^^ gmul a.a2 3 ^^^ a.a3
  a2 := a.a0 ^^^ a.a1 ^^^ gmul a.a2 2 ^^^ gmul a.a3 3
  a3 := gmul a.a0 3 ^^^ a.a1 ^^^ a.a2 ^^^ gmul a.a3 2

/-- One column of `inverseMixColumns` (R150). -/
def inverseMixColumn (a : Column) : Column where
  a0 := gmul a.a0 14 ^^^ gmul a.a1 11 ^^^ gmul a.a2 13 ^^^ gmul a.a3 9
  a1 := gmul a.a0 9 ^^^ gmul a.a1 14 ^^^ gmul a.a2 11 ^^^ gmul a.a3 13
  a2 := gmul a.a0 13 ^^^ gmul a.a1 9 ^^^ gmul a.a2 14 ^^^ gmul a.a3 11
  a3 := gmul a.a0 11 ^^^ gmul a.a1 13 ^^^ gmul a.a2 9 ^^^ gmul a.a3 14

/-- `mixColumns(S)` (R149): every column by itself. -/
def mixColumns (S : ByteMatrix) : ByteMatrix :=
  ⟨mixColumn S.c0, mixColumn S.c1, mixColumn S.c2, mixColumn S.c3⟩

/-- `inverseMixColumns(S)` (R150): every column by itself. -/
def inverseMixColumns (S : ByteMatrix) : ByteMatrix :=
  ⟨inverseMixColumn S.c0, inverseMixColumn S.c1, inverseMixColumn S.c2, inverseMixColumn S.c3⟩

/-- `addRoundKey(S, i) = combine(S, RK[i])` (R151).  Callers keep `i` inside the sequence. -/
def addRoundKey (S : ByteMatrix) (rk : List ByteMatrix) (i : Nat) : ByteMatrix :=
  combine S (rk.getD i zeroMatrix)

end Sys2Proof.Machine
end

