-- ==== Sys2Proof/Machine/KeySchedule.lean ====
section
/-! DEFINITION. The Key Schedule Generator (spec/42_key_schedule.md R180 to R188). -/

namespace Sys2Proof.Machine

/-- `rc(j)` (R181): `rc(1) = 0x01`, `rc(j) = xtime(rc(j-1))`.  The spec gives no `rc(0)` and no rule reads it. -/
def rc : Nat → Byte
  | 0 => 0x00#8
  | 1 => 0x01#8
  | j + 2 => xtime (rc (j + 1))

/-- `rotCol(a)` (R182). -/
def rotCol (a : Column) : Column := ⟨a.a1, a.a2, a.a3, a.a0⟩

/-- `subCol(a)` (R182). -/
def subCol (a : Column) : Column := ⟨sbox a.a0, sbox a.a1, sbox a.a2, sbox a.a3⟩

/-- `xorCol(a, b)` (R182). -/
def xorCol (a b : Column) : Column :=
  ⟨a.a0 ^^^ b.a0, a.a1 ^^^ b.a1, a.a2 ^^^ b.a2, a.a3 ^^^ b.a3⟩

/-- The seed (R183): `RK[m] = load(k[16m .. 16m+15])` for `m` in `0 .. nb-1`. -/
def seedKeys (k : List Byte) (nb : Nat) : List ByteMatrix :=
  (List.range nb).map fun m => load (blockAt k m)

/-- The word that starts the first matrix of a key-length block (R184): rotated, substituted, with the round constant. -/
def firstWord (w : Column) (cnt : Nat) : Column :=
  let u := subCol (rotCol w)
  { u with a0 := u.a0 ^^^ rc cnt }

/-- The inner loop of R184: column `j` of the new matrix is column `j` of the matrix `nb` back XOR the running word, and
becomes the running word. -/
def chainColumns (back : ByteMatrix) (w : Column) : ByteMatrix :=
  let v0 := xorCol (column back 0) w
  let v1 := xorCol (column back 1) v0
  let v2 := xorCol (column back 2) v1
  let v3 := xorCol (column back 3) v2
  setColumn (setColumn (setColumn (setColumn zeroMatrix v0 0) v1 1) v2 2) v3 3

/-- The outer loop of R184 for `n` more matrices, from index `i` and expansion counter `cnt`, over the matrices made so
far (`RK[0 .. i-1]`, `i >= nb`). -/
def expandLoop (nb : Nat) : Nat → Nat → Nat → List ByteMatrix → List ByteMatrix
  | 0, _, _, rk => rk
  | n + 1, i, cnt, rk =>
    let w := column (rk.getD (i - 1) zeroMatrix) 3
    let back := rk.getD (i - nb) zeroMatrix
    if i % nb = 0 then
      expandLoop nb n (i + 1) (cnt + 1) (rk ++ [chainColumns back (firstWord w (cnt + 1))])
    else
      expandLoop nb n (i + 1) cnt (rk ++ [chainColumns back (subCol w)])

/-- `expand(k, nb, Nr)` (R184): the Round Key Sequence `RK[0 .. Nr]` of the key bytes `k`. -/
def expand (k : List Byte) (nb nr : Nat) : List ByteMatrix :=
  expandLoop nb (nr + 1 - nb) nb 0 (seedKeys k nb)

/-- Column `t` of the schedule, `W[4i+j] = column(RK[i], j)` (R185). -/
def scheduleWord (rk : List ByteMatrix) (t : Nat) : Column :=
  column (rk.getD (t / 4) zeroMatrix) (Fin.ofNat 4 (t % 4))

end Sys2Proof.Machine
end

