-- ==== Sys2Proof/Machine/RoundEngine.lean ====
section
/-! DEFINITION. The Round Engine (spec/43_round_engine.md R210 to R215), over a Round Key Sequence. -/

namespace Sys2Proof.Machine

/-- One middle round of R210: substitute, shiftRows, mixColumns, addRoundKey. -/
def cipherRound (rk : List ByteMatrix) (S : ByteMatrix) (i : Nat) : ByteMatrix :=
  addRoundKey (mixColumns (shiftRows (substitute S))) rk i

/-- `cipher(S, RK, Nr)` (R210). -/
def cipher (S : ByteMatrix) (rk : List ByteMatrix) (nr : Nat) : ByteMatrix :=
  let T := (List.range' 1 (nr - 1)).foldl (cipherRound rk) (addRoundKey S rk 0)
  addRoundKey (shiftRows (substitute T)) rk nr

/-- One middle round of R211: inverseShiftRows, inverseSubstitute, addRoundKey, inverseMixColumns. -/
def invCipherRound (rk : List ByteMatrix) (S : ByteMatrix) (i : Nat) : ByteMatrix :=
  inverseMixColumns (addRoundKey (inverseSubstitute (inverseShiftRows S)) rk i)

/-- `invCipher(S, RK, Nr)` (R211): the middle rounds run from `Nr-1` down to 1. -/
def invCipher (S : ByteMatrix) (rk : List ByteMatrix) (nr : Nat) : ByteMatrix :=
  let T := (List.range' 1 (nr - 1)).reverse.foldl (invCipherRound rk) (addRoundKey S rk nr)
  addRoundKey (inverseSubstitute (inverseShiftRows T)) rk 0

end Sys2Proof.Machine
end

