-- ==== Sys2Proof/Machine/Operands.lean ====
section
/-! DEFINITION. The operands of the commands: the input block, the key bytes, the key size, the padded block
(spec/10_state.md R37, R38; 42_key_schedule.md R186; 44_mode_layer.md R230, R234). -/

namespace Sys2Proof.Machine

/-- `din()`: the input block `b[0] .. b[15]` (R38). -/
def dinBlock (s : State) : Block := blockOfWords s.din

/-- The four bytes of a register word, most significant first (20_memory.md R60). -/
def wordBytes (w : Word) : List Byte := [wordByte w 0, wordByte w 1, wordByte w 2, wordByte w 3]

/-- The key bytes `k[0] .. k[31]` that KEY0..KEY7 hold (R37). -/
def keyBytes (key : Vector Word 8) : List Byte := key.toList.flatMap wordBytes

/-- What `CTRL.KEYSIZE` selects for KEY_EXPAND (42_key_schedule.md R186): `nb` and `nr`, or nothing for the two rejected
codes (R25, 93 U11). -/
def keySizeParams (code : BitVec 2) : Option (Nat × Nat) :=
  if code = 0b00#2 then some (1, 10)
  else if code = 0b10#2 then some (2, 14)
  else none

/-- The schedule KEY_EXPAND computes from the key registers for `nb` key blocks and `nr` rounds
(42_key_schedule.md R186). -/
def scheduleOfKey (key : Vector Word 8) (nb nr : Nat) : List ByteMatrix :=
  expand ((keyBytes key).take (16 * nb)) nb nr

/-- `padBlock(b, L)`: the first `L` bytes of `b`, then `16-L` bytes of value `16-L` (44_mode_layer.md R234). -/
def padBlock (b : Block) (L : Nat) : Block :=
  Vector.ofFn fun p => if p.val < L then b[p] else BitVec.ofNat 8 (16 - L)

/-- The domain of `cipher` and `invCipher` (43_round_engine.md R212, 93 U9): `NR` is 10 or 14. -/
def roundsInDomain (nr : BitVec 4) : Bool := nr == 10#4 || nr == 14#4

end Sys2Proof.Machine
end

