-- ==== Sys2Proof/Machine/Ops.lean ====
section
/-! DEFINITION. The named operations over the state that commands and host accesses share: writing DOUT, the round-key
store and CV, ending a command (`complete`, `raise`), clearing an error, and reading and writing one register
(spec/10_state.md, spec/60_exceptions.md). -/

namespace Sys2Proof.Machine

/-- `set_dout(o)` (10_state.md R39). -/
def setDout (o : Block) (s : State) : State := { s with dout := wordsOfBlock o }

/-- `int.CV <- M` (10_state.md R42). -/
def setCv (M : ByteMatrix) (s : State) : State := { s with cv := M }

/-- `int.RK[0 .. nr] <- rks; int.NR <- nr` (42_key_schedule.md R186).  The entries above `nr` are then unspecified
(10_state.md R40): free values (log 6). -/
def storeSchedule (rks : List ByteMatrix) (nr : Nat) (s : State) : State :=
  { s with
    rk := Vector.ofFn fun i =>
      if i.val < rks.length then rks.getD i.val zeroMatrix else Config.freeMatrix (s.draws + i.val)
    nr := BitVec.ofNat 4 nr
    draws := s.draws + 15 }

/-- `reg.STATUS.KEY_VALID <- 1` (42_key_schedule.md R186). -/
def markKeyValid (s : State) : State := { s with status := statusKeyExpanded s.status }

/-- `complete()`: the end of every successful command (10_state.md R33). -/
def complete (s : State) : State := { s with status := statusCompleted s.status }

/-- `raise E()`: ends the command and records the error; nothing but STATUS changes (60_exceptions.md R281, R272). -/
def raise (e : EngineError) (s : State) : State := { s with status := statusRaised e s.status }

/-- The "trap return" (60_exceptions.md R284): the host's write of `v` to STATUS clears DONE and ERR (10_state.md R35),
whether or not BUSY is 1. -/
def writeStatus (v : Word) (s : State) : State := { s with status := statusWriteClear v s.status }

/-- A host write dropped because BUSY is 1: E_BUSY is recorded, the pending command is unaffected
(60_exceptions.md R278). -/
def dropWrite (s : State) : State := { s with status := statusBusyError s.status }

/-- An accepted write of `v` to CMD (10_state.md R36): `v` is not decoded yet. -/
def acceptCmd (v : Word) (s : State) : State := { s with pend := v, status := statusAccepted s.status }

/-- An accepted write of `v` to CTRL (10_state.md R23). -/
def storeCtrl (v : Word) (s : State) : State := { s with ctrl := ctrlOfWord v }

/-- An accepted write of `v` to `KEYw`: the word is stored and KEY_VALID cleared (10_state.md R37). -/
def storeKey (w : Fin 8) (v : Word) (s : State) : State :=
  { s with key := s.key.set w v, status := statusKeyWritten s.status }

/-- An accepted write of `v` to `DINw` (10_state.md R38). -/
def storeDin (w : Fin 4) (v : Word) (s : State) : State := { s with din := s.din.set w v }

/-- A write that is accepted only while BUSY is 0, and otherwise dropped with E_BUSY (10_state.md R23, R36, R37, R38). -/
def unlessBusy (accept : State → State) (s : State) : State :=
  if s.status.busy then dropWrite s else accept s

/-- An admitted host write of `v` to the register `r` (10_state.md R20, R23, R35 to R39; 20_memory.md R68): DOUT and the
reserved offsets ignore it without error. -/
def writeReg (r : Reg) (v : Word) (s : State) : State :=
  match r with
  | .ctrl => unlessBusy (storeCtrl v) s
  | .status => writeStatus v s
  | .cmd => unlessBusy (acceptCmd v) s
  | .key w => unlessBusy (storeKey w v) s
  | .din w => unlessBusy (storeDin w v) s
  | .dout _ => s
  | .reserved => s

/-- One free value is drawn (log 4). -/
def drawOne (s : State) : State := { s with draws := s.draws + 1 }

/-- A read whose data the spec leaves open: any value (log 5). -/
def anyWord (s : State) : Word × State := (Config.freeWord s.draws, drawOne s)

/-- An admitted host read of the register `r` (10_state.md R20, R23, R28, R36 to R39; 20_memory.md R68).  CMD, KEYn and the
reserved offsets read 0.  DOUT reads any value while BUSY is 1 (70_reset_and_hazards.md R316).  No read changes the
engine (R65): only the model's draw counter may move. -/
def readReg (r : Reg) (s : State) : Word × State :=
  match r with
  | .ctrl => (ctrlWord s.ctrl, s)
  | .status => (statusWord s.status, s)
  | .cmd => (0, s)
  | .key _ => (0, s)
  | .din w => (s.din[w], s)
  | .dout w => if s.status.busy then anyWord s else (s.dout[w], s)
  | .reserved => (0, s)

/-- The word the engine is about to decode: `int.PEND` while a command is pending (10_state.md R29, R43) and `rst` is not
asserted (70_reset_and_hazards.md R310, R311). -/
def pendingWord (s : State) : Option Word :=
  if s.rst then none else if s.status.busy then some s.pend else none

/-- Asserting `rst` (70_reset_and_hazards.md R310, R311): every piece of state at its value of 10_state.md R48, at once; a
pending command is abandoned.  `RK` and `NR` are unspecified: free values (log 6).  The schedule and the bus log are the
host's and stay. -/
def assertReset (s : State) : State :=
  { State.reset with
    rk := Vector.ofFn fun i => Config.freeMatrix (s.draws + i.val)
    nr := Config.freeNr s.draws
    rst := true
    schedule := s.schedule
    bus := s.bus
    draws := s.draws + 15 }

/-- Releasing `rst`: the engine is then in the state reset left (70_reset_and_hazards.md R310). -/
def releaseReset (s : State) : State := { s with rst := false }

/-- A command that needs a valid schedule raises E_NO_KEY without one, before any other check of its own
(60_exceptions.md R277, R280). -/
def requireKey (s : State) (act : State → Result) : Result :=
  if s.status.keyValid then act s else .next (raise .noKey s)

end Sys2Proof.Machine
end

