-- ==== Sys2Proof/Machine/Bus.lean ====
section
/-! DEFINITION. Host bus accesses (spec/20_memory.md R60 to R70, spec/10_state.md R20 offsets, 70_reset_and_hazards.md
R312). -/

namespace Sys2Proof.Machine

/-- The register at an aligned offset of the window (10_state.md R20); all others are reserved (R68). -/
def regAt (off : Nat) : Reg :=
  if off = 0x00 then .ctrl
  else if off = 0x04 then .status
  else if off = 0x08 then .cmd
  else if 0x10 ≤ off ∧ off ≤ 0x2C then .key (Fin.ofNat 8 ((off - 0x10) / 4))
  else if 0x30 ≤ off ∧ off ≤ 0x3C then .din (Fin.ofNat 4 ((off - 0x30) / 4))
  else if 0x40 ≤ off ∧ off ≤ 0x4C then .dout (Fin.ofNat 4 ((off - 0x40) / 4))
  else .reserved

/-- Does a bus address fall into the window `BASE .. BASE+0xFF` (10_state.md R47, R66)? -/
def inWindow (addr : Nat) : Bool := decide (Config.base ≤ addr ∧ addr < Config.base + 0x100)

/-- The offset inside the window: the engine decodes bits 7:0 of the address (R67), `BASE` being a multiple of 256. -/
def offsetOf (addr : Nat) : Nat := addr % 0x100

/-- The only admitted width and alignment: 4 bytes at a multiple of 4 (R63). -/
def admitted (off width : Nat) : Bool := decide (width = 4 ∧ off % 4 = 0)

/-- A read at an offset of the window: a bus error if it is not admitted (R63, 93 U1), any value while `rst` is asserted
(70_reset_and_hazards.md R312, 93 U3), else the register's. -/
def windowRead (off width : Nat) (s : State) : Answer × State :=
  if admitted off width then
    let r := if s.rst then anyWord s else readReg (regAt off) s
    (.data r.1, r.2)
  else (.busError, s)

/-- A write at an offset of the window: a bus error if it is not admitted (R63, 93 U1), without effect while `rst` is
asserted (70_reset_and_hazards.md R312), else a write of the register. -/
def windowWrite (off width : Nat) (v : Word) (s : State) : Answer × State :=
  if admitted off width then
    (.written, if s.rst then s else writeReg (regAt off) v s)
  else (.busError, s)

/-- How the slave answers one access, and the state after it.  An address outside the window does not select the engine
(R67, log 8). -/
def answerAccess (a : Access) (s : State) : Answer × State :=
  match a with
  | .read addr width =>
    if inWindow addr then windowRead (offsetOf addr) width s else (.notSelected, s)
  | .write addr width v =>
    if inWindow addr then windowWrite (offsetOf addr) width v s else (.notSelected, s)

/-- The bus log gains one transaction (log 2). -/
def logTransaction (a : Access) (ans : Answer) (s : State) : State := { s with bus := ⟨a, ans⟩ :: s.bus }

/-- One host access, complete before the next takes effect (R70). -/
def hostAccess (a : Access) (s : State) : State :=
  logTransaction a (answerAccess a s).1 (answerAccess a s).2

end Sys2Proof.Machine
end

