-- ==== Sys2Proof/Machine/KeyCommands.lean ====
section
/-! DEFINITION. KEY_EXPAND (spec/42_key_schedule.md R186) and CHAIN_RESET (spec/44_mode_layer.md R240). -/

namespace Sys2Proof.Machine

/-- A successful KEY_EXPAND for `nb` key blocks and `nr` rounds (R186): the schedule, NR, a new stream's CV, KEY_VALID. -/
def expandKey (nb nr : Nat) (s : State) : State :=
  complete (markKeyValid (setCv zeroMatrix (storeSchedule (scheduleOfKey s.key nb nr) nr s)))

/-- KEY_EXPAND (R186): E_KEYSIZE for the rejected KEYSIZE codes (60_exceptions.md R276), which also clears KEY_VALID. -/
def execKeyExpand (s : State) : Result :=
  match keySizeParams s.ctrl.keysize with
  | some (nb, nr) => .next (expandKey nb nr s)
  | none => .next (raise .keySize s)

/-- CHAIN_RESET (R240): `int.CV <- Z; complete()`. -/
def execChainReset (s : State) : Result := .next (complete (setCv zeroMatrix s))

end Sys2Proof.Machine
end

