-- ==== Sys2Proof/Machine/ModeCommands.lean ====
section
/-! DEFINITION. ENCRYPT, DECRYPT and ENCRYPT_FINAL (spec/44_mode_layer.md R236, R237, R239). -/

namespace Sys2Proof.Machine

/-- Encryption of the block `x` in ECB (R231): CV is neither read nor written. -/
def encryptEcb (x : Block) (s : State) : State :=
  complete (setDout (serialize (cipher (load x) s.rk.toList s.nr.toNat)) s)

/-- Encryption of the block `x` in CBC (R232): CV becomes the output matrix. -/
def encryptCbc (x : Block) (s : State) : State :=
  let T := cipher (combine (load x) s.cv) s.rk.toList s.nr.toNat
  complete (setDout (serialize T) (setCv T s))

/-- Decryption of the block `y` in ECB (R231). -/
def decryptEcb (y : Block) (s : State) : State :=
  complete (setDout (serialize (invCipher (load y) s.rk.toList s.nr.toNat)) s)

/-- Decryption of the block `y` in CBC (R233): CV becomes the pre-inverse ciphertext. -/
def decryptCbc (y : Block) (s : State) : State :=
  complete (setDout (serialize (combine (invCipher (load y) s.rk.toList s.nr.toNat) s.cv)) (setCv (load y) s))

/-- Encryption of the block `x` in the mode CTRL selects (R236, R239), inside the Round Engine's domain
(43_round_engine.md R212, 93 U9). -/
def encryptBlock (x : Block) (s : State) : Result :=
  if roundsInDomain s.nr then
    match s.ctrl.mode with
    | .ecb => .next (encryptEcb x s)
    | .cbc => .next (encryptCbc x s)
  else .refused .roundKeysOutOfDomain

/-- ENCRYPT (R236). -/
def execEncrypt (s : State) : Result := requireKey s (encryptBlock (dinBlock s))

/-- DECRYPT (R237): no padding is removed or checked (R235). -/
def execDecrypt (s : State) : Result :=
  requireKey s fun s =>
    if roundsInDomain s.nr then
      match s.ctrl.mode with
      | .ecb => .next (decryptEcb (dinBlock s) s)
      | .cbc => .next (decryptCbc (dinBlock s) s)
    else .refused .roundKeysOutOfDomain

/-- ENCRYPT_FINAL (R238, R239): the block is `padBlock(din(), LEN)`. -/
def execEncryptFinal (len : Nat) (s : State) : Result :=
  requireKey s (encryptBlock (padBlock (dinBlock s) len))

end Sys2Proof.Machine
end

