-- ==== Sys2Proof/Machine/TransformCommands.lean ====
section
/-! DEFINITION. The single-transform commands (spec/41_state_transforms.md R154 to R162). -/

namespace Sys2Proof.Machine

/-- The common template (R154): DOUT is `f` of the input block. -/
def transformDin (f : ByteMatrix → ByteMatrix) (s : State) : State :=
  complete (setDout (serialize (f (load (dinBlock s)))) s)

/-- SUB_BYTES (R155). -/
def execSubBytes (s : State) : Result := .next (transformDin substitute s)

/-- INV_SUB_BYTES (R156). -/
def execInvSubBytes (s : State) : Result := .next (transformDin inverseSubstitute s)

/-- SHIFT_ROWS (R157). -/
def execShiftRows (s : State) : Result := .next (transformDin shiftRows s)

/-- INV_SHIFT_ROWS (R158). -/
def execInvShiftRows (s : State) : Result := .next (transformDin inverseShiftRows s)

/-- MIX_COLUMNS (R159). -/
def execMixColumns (s : State) : Result := .next (transformDin mixColumns s)

/-- INV_MIX_COLUMNS (R160). -/
def execInvMixColumns (s : State) : Result := .next (transformDin inverseMixColumns s)

/-- ADD_ROUND_KEY (R162): E_NO_KEY before E_RKIDX (60_exceptions.md R280).  The store has 15 entries (00_scope.md R7). -/
def execAddRoundKey (rkidx : Nat) (s : State) : Result :=
  requireKey s fun s =>
    if rkidx > s.nr.toNat then .next (raise .rkIdx s)
    else if rkidx < 15 then .next (transformDin (fun S => addRoundKey S s.rk.toList rkidx) s)
    else .fault .noSuchRoundKey

end Sys2Proof.Machine
end

