-- ==== Sys2Proof/Machine/Step.lean ====
section
/-! DEFINITION. One step of the hardware: the host and the engine take turns as the schedule says (spec/00_scope.md R8,
20_memory.md R70, 70_reset_and_hazards.md R310, R315). -/

namespace Sys2Proof.Machine

/-- The engine's turn: it completes the pending command, one atomic transition (10_state.md R32).  The word is decoded
now (30_encoding.md R91) and one that matches no row raises E_ILLEGAL_CMD (R95).  With nothing pending, nothing
happens. -/
def engineTurn (s : State) : Host.Outcome State Fault Refusal :=
  match pendingWord s with
  | none => .next s
  | some w =>
    match decode w with
    | .ok i => exec i s
    | .error _ => .next (raise .illegalCmd s)

/-- One step: the first turn of the schedule is taken off it and played.  When the host has nothing left to do, the engine
moves: completion happens unless reset comes first (70_reset_and_hazards.md R315, log 1). -/
def step (s : State) : Host.Outcome State Fault Refusal :=
  match s.schedule with
  | [] => engineTurn s
  | .engine :: rest => engineTurn { s with schedule := rest }
  | .host a :: rest => .next (hostAccess a { s with schedule := rest })
  | .assertRst :: rest => .next (assertReset { s with schedule := rest })
  | .releaseRst :: rest => .next (releaseReset { s with schedule := rest })

/-- The state in which the command word numbered `w` is pending, as after an accepted CMD write (10_state.md R36), `rst`
is not asserted and the engine's turn is next: the very next step runs it (log 9). -/
def State.withFetchWord (s : State) (nbits w : Nat) : State :=
  { acceptCmd (tableWord nbits w) s with rst := false, schedule := .engine :: s.schedule }

end Sys2Proof.Machine
end

