-- ==== Sys2Proof/Machine/Streams.lean ====
section
/-! DEFINITION. Padding and the stream functions of the Mode Layer (spec/44_mode_layer.md R230 to R233, R241 to R245).  They
are no commands: they say what a sequence of commands computes. -/

namespace Sys2Proof.Machine

/-- `pad(P)` (R230): `n = 16 - (len(P) mod 16)` bytes of value `n` are appended, always at least one. -/
def pad (P : List Byte) : List Byte :=
  P ++ List.replicate (16 - P.length % 16) (BitVec.ofNat 8 (16 - P.length % 16))

/-- The whole 16-byte blocks of a sequence, in order: `q_i = Q[16i .. 16i+15]` (R241, R242). -/
def blocksOf (Q : List Byte) : List Block := (List.range (Q.length / 16)).map (blockAt Q)

/-- `ecbEnc(x)` under a schedule (R231). -/
def ecbEnc (rk : List ByteMatrix) (nr : Nat) (x : Block) : Block := serialize (cipher (load x) rk nr)

/-- `ecbDec(y)` under a schedule (R231). -/
def ecbDec (rk : List ByteMatrix) (nr : Nat) (y : Block) : Block := serialize (invCipher (load y) rk nr)

/-- The blocks of an encrypted stream from the chaining vector `V` on (R231, R232, R241). -/
def encryptBlocks (m : Mode) (rk : List ByteMatrix) (nr : Nat) : List Block → ByteMatrix → List Byte
  | [], _ => []
  | x :: xs, V =>
    match m with
    | .ecb => (ecbEnc rk nr x).toList ++ encryptBlocks m rk nr xs V
    | .cbc =>
      let T := cipher (combine (load x) V) rk nr
      (serialize T).toList ++ encryptBlocks m rk nr xs T

/-- The blocks of a decrypted stream from the chaining vector `V` on (R231, R233, R242). -/
def decryptBlocks (m : Mode) (rk : List ByteMatrix) (nr : Nat) : List Block → ByteMatrix → List Byte
  | [], _ => []
  | y :: ys, V =>
    match m with
    | .ecb => (ecbDec rk nr y).toList ++ decryptBlocks m rk nr ys V
    | .cbc => (serialize (combine (invCipher (load y) rk nr) V)).toList ++ decryptBlocks m rk nr ys (load y)

/-- `nb` and `Nr` of a key of `len` bytes (00_scope.md R6); every other length is a configuration error (R244). -/
def keyLengthParams (len : Nat) : Option (Nat × Nat) :=
  if len = 16 then some (1, 10)
  else if len = 32 then some (2, 14)
  else none

/-- `encrypt_stream(m, K, P)` (R241); undefined for a key length other than 16 or 32 bytes (R244, 93 U17). -/
def encryptStream (m : Mode) (K P : List Byte) : Option (List Byte) :=
  match keyLengthParams K.length with
  | some (nb, nr) => some (encryptBlocks m (expand K nb nr) nr (blocksOf (pad P)) zeroMatrix)
  | none => none

/-- `decrypt_stream(m, K, C)` (R242), pad bytes included (R235); undefined unless `len(C) mod 16 = 0` (R243, 93 U5) and
the key has 16 or 32 bytes (R244). -/
def decryptStream (m : Mode) (K C : List Byte) : Option (List Byte) :=
  if C.length % 16 = 0 then
    match keyLengthParams K.length with
    | some (nb, nr) => some (decryptBlocks m (expand K nb nr) nr (blocksOf C) zeroMatrix)
    | none => none
  else none

end Sys2Proof.Machine
end

