-- ==== Sys2Proof/Machine/Driver.lean ====
section
/-! DEFINITION. Host programs (spec/30_encoding.md R97, R98) as the turns the host and the engine take, and the host driver
protocol (spec/44_mode_layer.md R243, R244, R246), which plays them on the machine and decides on what it reads. -/

namespace Sys2Proof.Machine

/-- `WR off, v` (30_encoding.md R98). -/
def wrTurn (off : Nat) (v : Word) : Turn := .host (.write (Config.base + off) 4 v)

/-- `RD off` (30_encoding.md R98); its value is in the bus log. -/
def rdTurn (off : Nat) : Turn := .host (.read (Config.base + off) 4)

/-- `RUN c` (30_encoding.md R98): the CMD write, then the `WAIT` loop.  `polls` of its STATUS reads come before the engine
completes the command (the latency, 70_reset_and_hazards.md R315), and one after it ends the loop. -/
def runTurns (i : Instr) (polls : Nat) : List Turn :=
  wrTurn 0x08 (encode i) :: (List.replicate polls (rdTurn 0x04) ++ [.engine, rdTurn 0x04])

/-- Register word `w` of a byte sequence (20_memory.md R60). -/
def keyWord (K : List Byte) (w : Nat) : Word :=
  packWord (K.getD (4 * w) 0) (K.getD (4 * w + 1) 0) (K.getD (4 * w + 2) 0) (K.getD (4 * w + 3) 0)

/-- `KEY128` or `KEY256` (30_encoding.md R98): the key goes into KEY0 .. KEY(len/4 - 1).  There are eight key registers, and a
key of no legal length fills no others (log 23). -/
def keyTurns (K : List Byte) : List Turn :=
  (List.range (min (K.length / 4) 8)).map fun w => wrTurn (0x10 + 4 * w) (keyWord K w)

/-- `BLOCK` (30_encoding.md R98): the block goes into DIN0..DIN3. -/
def blockTurns (b : Block) : List Turn :=
  (wordsOfBlock b).toList.mapIdx fun w v => wrTurn (0x30 + 4 * w) v

/-- `READOUT` (30_encoding.md R98): DOUT0..DOUT3 are read. -/
def readoutTurns : List Turn := [rdTurn 0x40, rdTurn 0x44, rdTurn 0x48, rdTurn 0x4C]

/-- The KEYSIZE code of a key of `len` bytes (10_state.md R23): 24 bytes have the 192-bit code, which KEY_EXPAND rejects.
Any other length has no code: the reserved one, also rejected, since such a length is E_KEYSIZE from KEY_EXPAND (R244,
log 23). -/
def keySizeCode (len : Nat) : Word :=
  if len = 16 then 0b00#32
  else if len = 32 then 0b10#32
  else if len = 24 then 0b01#32
  else 0b11#32

/-- The common prologue of R246: CTRL, the key, KEY_EXPAND, and the STATUS read on which the driver decides. -/
def prologueTurns (lat : Nat → Nat) (m : Mode) (K : List Byte) : List Turn :=
  wrTurn 0x00 ((keySizeCode K.length <<< 1) ||| (BitVec.ofBool (modeBit m)).setWidth 32) ::
    (keyTurns K ++ runTurns .keyExpand (lat 0) ++ [rdTurn 0x04])

/-- One block of R246: DIN is written, the command runs, DOUT is read. -/
def oneBlockTurns (i : Instr) (b : Block) (polls : Nat) : List Turn :=
  blockTurns b ++ runTurns i polls ++ readoutTurns

/-- The last DIN block of an encryption (R246): the last `len(P) mod 16` bytes of `P`, then bytes of `fill`, which may have
any value. -/
def tailBlock (P : List Byte) (fill : Block) : Block :=
  Vector.ofFn fun p => if p.val < P.length % 16 then P.getD (16 * (P.length / 16) + p.val) 0 else fill[p]

/-- The blocks of an encryption (R246): `lat j` is the number of polls of the `j`-th command before it completes. -/
def encryptBody (lat : Nat → Nat) (fill : Block) (P : List Byte) : List Turn :=
  ((List.range (P.length / 16)).flatMap fun i => oneBlockTurns .encrypt (blockAt P i) (lat (i + 1))) ++
    oneBlockTurns (.encryptFinal (P.length % 16)) (tailBlock P fill) (lat (P.length / 16 + 1))

/-- The blocks of a decryption (R246). -/
def decryptBody (lat : Nat → Nat) (C : List Byte) : List Turn :=
  (List.range (C.length / 16)).flatMap fun i => oneBlockTurns .decrypt (blockAt C i) (lat (i + 1))

/-- How a stream operation of the driver ends (R243, R244, R246). -/
inductive DriverEnd where
  /-- the stream is refused before any command is issued (R243) -/
  | refused
  /-- STATUS read with ERR = 1 after the prologue: no block is issued (R244, R246) -/
  | aborted (s : State)
  /-- every block was issued -/
  | finished (s : State)
  /-- the machine stopped, in states no run reaches (log 7) -/
  | stopped
deriving DecidableEq, Repr

/-- The turns `ts` are taken from `s`. -/
def playTurns (ts : List Turn) (s : State) : Result := Host.Core.run core ts.length { s with schedule := ts }

/-- `s[2] = 0` in R246: the newest answer on the bus is a word with the ERR bit clear. -/
def errReadClear (bus : List Transaction) : Bool :=
  match bus with
  | [] => false
  | t :: _ =>
    match t.answer with
    | .data w => !w.getLsbD 2
    | .written => false
    | .busError => false
    | .notSelected => false

/-- The last phase of a stream: its turns are taken with no further decision. -/
def finishStream (ts : List Turn) (s : State) : DriverEnd :=
  match playTurns ts s with
  | .next t => .finished t
  | .fault _ => .stopped
  | .refused _ => .stopped

/-- `if s[2] = 1 then abort` (R246): the blocks follow the prologue only if its STATUS read shows ERR = 0. -/
def afterPrologue (lat : Nat → Nat) (m : Mode) (K : List Byte) (body : List Turn) (s : State) : DriverEnd :=
  match playTurns (prologueTurns lat m K) s with
  | .next t => if errReadClear t.bus then finishStream body t else .aborted t
  | .fault _ => .stopped
  | .refused _ => .stopped

/-- A ciphertext that is no whole number of blocks is refused before any command (R243, R246). -/
def unlessTruncated (C : List Byte) (go : DriverEnd) : DriverEnd := if C.length % 16 = 0 then go else .refused

/-- The driver of R246 for an encryption. -/
def encryptDriver (lat : Nat → Nat) (fill : Block) (m : Mode) (K P : List Byte) (s : State) : DriverEnd :=
  afterPrologue lat m K (encryptBody lat fill P) s

/-- The driver of R246 for a decryption. -/
def decryptDriver (lat : Nat → Nat) (m : Mode) (K C : List Byte) (s : State) : DriverEnd :=
  unlessTruncated C (afterPrologue lat m K (decryptBody lat C) s)

/-- A second encryption under an already expanded key starts with `RUN CHAIN_RESET` instead of the prologue (R246). -/
def nextEncryptDriver (lat : Nat → Nat) (fill : Block) (P : List Byte) (s : State) : DriverEnd :=
  finishStream (runTurns .chainReset (lat 0) ++ encryptBody lat fill P) s

/-- A second decryption under an already expanded key (R243, R246). -/
def nextDecryptDriver (lat : Nat → Nat) (C : List Byte) (s : State) : DriverEnd :=
  unlessTruncated C (finishStream (runTurns .chainReset (lat 0) ++ decryptBody lat C) s)

/-- The bytes a transaction brings into the host's output buffer: the data of a read of DOUT0..DOUT3. -/
def outputBytes (t : Transaction) : List Byte :=
  match t with
  | ⟨.read addr _, .data w⟩ =>
    if Config.base + 0x40 ≤ addr ∧ addr ≤ Config.base + 0x4C then wordBytes w else []
  | ⟨.read _ _, .written⟩ => []
  | ⟨.read _ _, .busError⟩ => []
  | ⟨.read _ _, .notSelected⟩ => []
  | ⟨.write _ _ _, _⟩ => []

/-- The host's output buffer: everything it read from DOUT, oldest first (the bus log is newest first). -/
def hostOutput (bus : List Transaction) : List Byte := bus.reverse.flatMap outputBytes

end Sys2Proof.Machine
end

