-- ==== Sys2Proof/Safety.lean ====
section
/-! DEFINITION. The vocabulary of claims: which fields are the engine's (spec/10_state.md R20), what the next turn is, what
one host access does, when a schedule belongs to the key, and the invariant of the machine. -/

namespace Sys2Proof.Machine

/-- `s` and `t` hold the same engine state: every piece of state of R20, and the level of `rst`. -/
def sameEngine (s t : State) : Prop :=
  t = { s with schedule := t.schedule, bus := t.bus, draws := t.draws }

/-- `s` and `t` differ at most in `RK` and `NR`. -/
def sameButSchedule (s t : State) : Prop :=
  t = { s with rk := t.rk, nr := t.nr }

/-- The word `w` is pending and the engine may complete it (10_state.md R29, R43; 70_reset_and_hazards.md R310). -/
def pending (s : State) (w : Word) : Prop := s.rst = false ∧ s.status.busy = true ∧ s.pend = w

/-- The next turn is the engine's. -/
def engineNext (s : State) : Prop := s.schedule = [] ∨ ∃ rest, s.schedule = .engine :: rest

/-- The next turn asserts `rst`. -/
def assertNext (s : State) : Prop := ∃ rest, s.schedule = .assertRst :: rest

/-- The next turn is an admitted host write of `v` to the register `r`, with `rst` not asserted. -/
def writeNext (s : State) (r : Reg) (v : Word) : Prop :=
  s.rst = false ∧ ∃ addr rest, s.schedule = .host (.write addr 4 v) :: rest ∧
    inWindow addr = true ∧ offsetOf addr % 4 = 0 ∧ regAt (offsetOf addr) = r

/-- A host write of `v` at `BASE+off`, taken from `s`, is acknowledged and leaves the state `t`, but for the host's own
schedule and bus log. -/
def hostWrites (s : State) (off : Nat) (v : Word) (t : State) : Prop :=
  ∀ rest, step { s with schedule := .host (.write (Config.base + off) 4 v) :: rest } =
    .next { t with schedule := rest, bus := ⟨.write (Config.base + off) 4 v, .written⟩ :: s.bus }

/-- A host read at `BASE+off`, taken from `s`, is answered with the word `w` and leaves the state `t`, but for the host's
own schedule and bus log. -/
def hostReads (s : State) (off : Nat) (w : Word) (t : State) : Prop :=
  ∀ rest, step { s with schedule := .host (.read (Config.base + off) 4) :: rest } =
    .next { t with schedule := rest, bus := ⟨.read (Config.base + off) 4, .data w⟩ :: s.bus }

/-- The commands run one after the other, the host copying DOUT to DIN after each (95_test_vectors.md P3): the state
left, if every command answers a next state. -/
def runCopying : List Instr → State → Option State
  | [], s => some s
  | i :: is, s =>
    match exec i s with
    | .next t => runCopying is { t with din := t.dout }
    | .fault _ => none
    | .refused _ => none

/-- The single-transform commands of the forward cipher with `nr` rounds (43_round_engine.md R210). -/
def roundCommands (nr : Nat) : List Instr :=
  .addRoundKey 0 ::
    ((List.range' 1 (nr - 1)).flatMap (fun i => [.subBytes, .shiftRows, .mixColumns, .addRoundKey i]) ++
      [.subBytes, .shiftRows, .addRoundKey nr])

/-- `RK` and `NR` hold the schedule of the current key (10_state.md R28, R40, R41): of KEY0..KEY3 with 10 rounds, or of
KEY0..KEY7 with 14. -/
def holdsSchedule (s : State) : Prop :=
  (s.nr = 10#4 ∧ s.rk.toList.take 11 = expand ((keyBytes s.key).take 16) 1 10) ∨
  (s.nr = 14#4 ∧ s.rk.toList.take 15 = expand ((keyBytes s.key).take 32) 2 14)

/-- `RK` and `NR` hold the schedule of the key `K` of 16 or 32 bytes (44_mode_layer.md R246 "already expanded key"). -/
def expandedKey (K : List Byte) (s : State) : Prop :=
  ∃ nb nr, keyLengthParams K.length = some (nb, nr) ∧ s.nr.toNat = nr ∧ s.rk.toList.take (nr + 1) = expand K nb nr

/-- The invariant of the machine. -/
structure EngineInv (s : State) : Prop where
  /-- DONE is 0 while a command is pending (10_state.md R36, 60_exceptions.md R285) -/
  busy_not_done : s.status.busy = true → s.status.done = false
  /-- ERR is 1 exactly when ERRCODE holds a code (10_state.md R31, R35, R46) -/
  err_iff_code : s.status.err = true ↔ s.status.errcode ≠ 0
  /-- the reserved codes 6..15 are never produced (60_exceptions.md R270, 93 U13) -/
  code_not_reserved : s.status.errcode.toNat ≤ 5
  /-- KEY_VALID is 1 only with the schedule of the current key (10_state.md R28, R34; 43_round_engine.md R212) -/
  key_valid : s.status.keyValid = true → holdsSchedule s
  /-- while `rst` is asserted STATUS keeps its reset value (70_reset_and_hazards.md R310, R312) -/
  rst_status : s.rst = true → s.status = Status.reset

end Sys2Proof.Machine
end

