-- ==== Sys2Proof/Certificates/Slice0/Obligations.lean ====
section
/-! DEFINITION. The statements for the provers.  Each docstring names the rule of spec/ it formalises, or says that it is
derived or rests on a choice of the model. -/

open Sys2Proof Sys2Proof.Machine

/-! ### Encoding and decoding -/

/-- 30_encoding.md, sections 1 to 5 (derived): decoding an encoded well-formed command gives it back, and a word that
decodes is the encoding of a well-formed command, so that each command word has exactly one meaning. -/
def Obligations.DecodeUndoesEncode : Prop :=
  (∀ i : Instr, i.wf = true → decode (encode i) = .ok i) ∧
  ∀ (w : Word) (i : Instr), decode w = .ok i → i.wf = true ∧ encode i = w

/-- R91: no word matches two rows; a pending word that matches a row is performed as that row's command; one that matches
none raises E_ILLEGAL_CMD. -/
def Obligations.EngineFollowsTheOpcodeMap : Prop :=
  (opcodeMap.Pairwise fun r q => ∀ w : Word, ¬ (w &&& r.mask = r.value ∧ w &&& q.mask = q.value)) ∧
  (∀ r ∈ opcodeMap, 0xFF#32 &&& r.mask = 0xFF#32) ∧
  (∀ (s : State) (r : OpcodeRow) (rest : List Turn), pending s s.pend → r ∈ opcodeMap → s.pend &&& r.mask = r.value →
    step { s with schedule := .engine :: rest } = exec (r.build s.pend) { s with schedule := rest }) ∧
  ∀ (s : State) (rest : List Turn), pending s s.pend → (∀ r ∈ opcodeMap, s.pend &&& r.mask ≠ r.value) →
    step { s with schedule := .engine :: rest } = .next (raise .illegalCmd { s with schedule := rest })

/-- R95, R275: the illegal words are exactly those with an unassigned `OP`, a reserved bit, a stray LEN or a stray RKIDX, and
completing one raises E_ILLEGAL_CMD (code 1) and changes nothing but STATUS. -/
def Obligations.IllegalWordsRaiseIllegalCmd : Prop :=
  (∀ w : Word, (∃ e, decode w = .error e) ↔
    (w.extractLsb' 0 8).toNat ∉ [0x01, 0x02, 0x10, 0x11, 0x12, 0x20, 0x21, 0x22, 0x23, 0x24, 0x25, 0x26] ∨
    w.extractLsb' 20 12 ≠ 0 ∨ w.extractLsb' 12 4 ≠ 0 ∨
    (w.extractLsb' 8 4 ≠ 0 ∧ w.extractLsb' 0 8 ≠ 0x12#8) ∨
    (w.extractLsb' 16 4 ≠ 0 ∧ w.extractLsb' 0 8 ≠ 0x26#8)) ∧
  ∀ (s : State) (rest : List Turn), pending s s.pend → (∃ e, decode s.pend = .error e) →
    step { s with schedule := .engine :: rest } = .next { s with
      schedule := rest
      status := { busy := false, done := true, err := true, keyValid := s.status.keyValid, errcode := 1 } }

/-- 95_test_vectors.md V8.1 (derived): the command words the spec writes out decode to their commands. -/
def Obligations.SpecWordsDecode : Prop :=
  decode 0x00000001#32 = .ok .keyExpand ∧ decode 0x00000002#32 = .ok .chainReset ∧
  decode 0x00000010#32 = .ok .encrypt ∧ decode 0x00000011#32 = .ok .decrypt ∧
  decode 0x00000f12#32 = .ok (.encryptFinal 15) ∧ decode 0x00000020#32 = .ok .subBytes ∧
  decode 0x00000021#32 = .ok .invSubBytes ∧ decode 0x00000022#32 = .ok .shiftRows ∧
  decode 0x00000023#32 = .ok .invShiftRows ∧ decode 0x00000024#32 = .ok .mixColumns ∧
  decode 0x00000025#32 = .ok .invMixColumns ∧ decode 0x000e0026#32 = .ok (.addRoundKey 14)

/-! ### The step -/

/-- 10_state.md sections 2 and 4, 30_encoding.md section 1 (derived): when the pending word decodes to `i`, the engine's turn
is `exec i`, with only the played turn taken off the schedule; so it is when the host has nothing left to do (the
model's choice, log 1). -/
def Obligations.EngineTurnRunsTheDecodedCommand : Prop :=
  ∀ (s : State) (i : Instr), pending s s.pend → decode s.pend = .ok i →
    (∀ rest, step { s with schedule := .engine :: rest } = exec i { s with schedule := rest }) ∧
    (s.schedule = [] → step s = exec i s)

/-- The model's choice (log 9; 10_state.md section 5): with a command word placed as a CMD write leaves it, the very next
step runs exactly that command. -/
def Obligations.PlacedWordRunsNext : Prop :=
  ∀ (s : State) (w : Nat) (i : Instr), w < 2 ^ 32 → decode (BitVec.ofNat 32 w) = .ok i →
    step (s.withFetchWord 32 w) = exec i { s with
      pend := BitVec.ofNat 32 w
      status := { s.status with busy := true, done := false }
      rst := false }

/-- 20_memory.md section 6, 70_reset_and_hazards.md sections 1 and 3 (derived; the schedule is the model's choice, log 1):
the turn at the head of the schedule is played and nothing else; an engine turn with nothing pending changes nothing. -/
def Obligations.TurnsAreTakenInOrder : Prop :=
  ∀ (s : State) (rest : List Turn),
    (∀ a, step { s with schedule := .host a :: rest } = .next (hostAccess a { s with schedule := rest })) ∧
    step { s with schedule := .assertRst :: rest } = .next (assertReset { s with schedule := rest }) ∧
    step { s with schedule := .releaseRst :: rest } = .next { s with schedule := rest, rst := false } ∧
    (s.status.busy = false ∨ s.rst = true →
      step { s with schedule := .engine :: rest } = .next { s with schedule := rest } ∧
      (s.schedule = [] → step s = .next s))

/-! ### Reset -/

/-- R48: the values the spec gives for reset.  (RK and NR are unspecified and nothing is said about them.) -/
def Obligations.ResetValues : Prop :=
  ctrlWord State.reset.ctrl = 0 ∧ State.reset.ctrl.mode = .ecb ∧ State.reset.ctrl.keysize = 0b00#2 ∧
  State.reset.ctrl.ieDone = false ∧ State.reset.ctrl.ieErr = false ∧
  statusWord State.reset.status = 0 ∧
  hostReads State.reset 0x08 0 State.reset ∧
  (∀ w : Fin 8, State.reset.key[w] = 0 ∧ hostReads State.reset (0x10 + 4 * w.val) 0 State.reset) ∧
  (∀ w : Fin 4, State.reset.din[w] = 0 ∧ State.reset.dout[w] = 0) ∧
  (∀ r c : Fin 4, entry State.reset.cv r c = 0) ∧
  State.reset.pend = 0 ∧ State.reset.irq = false

/-- R310, R311: whatever the state, asserting `rst` sets every piece of state to its reset value at once, a pending command
is abandoned with no error recorded and DONE stays 0; the engine then executes nothing. -/
def Obligations.AssertingRstResetsEverything : Prop :=
  ∀ (s : State) (rest : List Turn), ∃ t, step { s with schedule := .assertRst :: rest } = .next t ∧
    t.rst = true ∧ t.schedule = rest ∧ t.bus = s.bus ∧
    ctrlWord t.ctrl = 0 ∧ statusWord t.status = 0 ∧
    (∀ w : Fin 8, t.key[w] = 0) ∧ (∀ w : Fin 4, t.din[w] = 0 ∧ t.dout[w] = 0) ∧
    t.cv = zeroMatrix ∧ t.pend = 0 ∧ t.irq = false ∧
    ∀ rest', step { t with schedule := .engine :: rest' } = .next { t with schedule := rest' }

/-- R312: a bus access made while `rst` is asserted has no effect on the engine, and an admitted read of the window then
returns a free value (that of the model, `Config.freeWord`, of which nothing is assumed). -/
def Obligations.AccessUnderRstHasNoEffect : Prop :=
  ∀ (s : State) (rest : List Turn), s.rst = true →
    (∀ a, ∃ t, step { s with schedule := .host a :: rest } = .next t ∧ sameEngine s t ∧ t.schedule = rest) ∧
    ∀ off, off < 0x100 → off % 4 = 0 →
      hostReads s off (Config.freeWord s.draws) { s with draws := s.draws + 1 }

/-! ### Host accesses -/

/-- R63: an access of another width than 32 bits, or at an offset that is no multiple of 4, is answered with a bus error and
changes no state of the engine; an admitted one is never answered so.  (Under `rst`: R312 and ReadsHaveNoSideEffect.) -/
def Obligations.InadmissibleAccessIsABusError : Prop :=
  ∀ (s : State) (off width : Nat) (v : Word) (rest : List Turn), s.rst = false → off < 0x100 →
    (width ≠ 4 ∨ off % 4 ≠ 0 →
      step { s with schedule := .host (.read (Config.base + off) width) :: rest } = .next { s with
        schedule := rest, bus := ⟨.read (Config.base + off) width, .busError⟩ :: s.bus } ∧
      step { s with schedule := .host (.write (Config.base + off) width v) :: rest } = .next { s with
        schedule := rest, bus := ⟨.write (Config.base + off) width v, .busError⟩ :: s.bus }) ∧
    (width = 4 → off % 4 = 0 →
      off ≤ 0xFC ∧ (∃ w t, hostReads s off w t) ∧ ∃ t, hostWrites s off v t)

/-- 10_state.md section 1, 20_memory.md section 4 (derived): `BASE` is a multiple of 256 and the window decodes the register
offsets of R20; every other aligned offset is reserved. -/
def Obligations.AddressMap : Prop :=
  Config.base % 256 = 0 ∧ regAt 0x00 = .ctrl ∧ regAt 0x04 = .status ∧ regAt 0x08 = .cmd ∧
  (∀ w : Fin 8, regAt (0x10 + 4 * w.val) = .key w) ∧
  (∀ w : Fin 4, regAt (0x30 + 4 * w.val) = .din w ∧ regAt (0x40 + 4 * w.val) = .dout w) ∧
  ∀ off, off < 0x100 → off % 4 = 0 → (regAt off = .reserved ↔ off = 0x0C ∨ 0x50 ≤ off)

/-- R23, R27: a write of `v` to CTRL while BUSY is 0 stores `v & 0x37`, which is then what CTRL reads as, and changes nothing
else; while BUSY is 1 it is dropped with E_BUSY; the fields stand at their bits, the reserved bits read 0; KEYSIZE 0b00 is
128-bit, 0b10 is 256-bit and the other codes are rejected; IE_DONE and IE_ERR let DONE and ERR raise `irq`; the reset value
is 0. -/
def Obligations.CtrlWriteAndRead : Prop :=
  (∀ (s : State) (v : Word), s.rst = false → s.status.busy = false →
    ∃ t, hostWrites s 0x00 v t ∧ t = { s with ctrl := t.ctrl } ∧ hostReads t 0x00 (v &&& 0x00000037#32) t) ∧
  (∀ (s : State) (v : Word), s.rst = false → s.status.busy = true →
    hostWrites s 0x00 v { s with status := { s.status with err := true, errcode := 4 } }) ∧
  (∀ s : State, s.rst = false → hostReads s 0x00 (ctrlWord s.ctrl) s) ∧
  (∀ c : Ctrl, ((ctrlWord c).getLsbD 0 = true ↔ c.mode = .cbc) ∧ (ctrlWord c).extractLsb' 1 2 = c.keysize ∧
    (ctrlWord c).getLsbD 4 = c.ieDone ∧ (ctrlWord c).getLsbD 5 = c.ieErr ∧
    (ctrlWord c).getLsbD 3 = false ∧ (ctrlWord c).extractLsb' 6 26 = 0) ∧
  (keySizeParams 0b00#2 = some (1, 10) ∧ keySizeParams 0b10#2 = some (2, 14) ∧
    keySizeParams 0b01#2 = none ∧ keySizeParams 0b11#2 = none) ∧
  (∀ s : State, s.ctrl.ieDone = true → s.status.done = true → s.irq = true) ∧
  (∀ s : State, s.ctrl.ieErr = true → s.status.err = true → s.irq = true) ∧
  ctrlWord State.reset.ctrl = 0

/-- 10_state.md section 4 (derived): STATUS reads as its fields at their bits, the reserved bits as 0, and as 0 after reset. -/
def Obligations.StatusReadsItsFields : Prop :=
  (∀ s : State, s.rst = false → ∃ w, hostReads s 0x04 w s ∧
    w.getLsbD 0 = s.status.busy ∧ w.getLsbD 1 = s.status.done ∧ w.getLsbD 2 = s.status.err ∧
    w.getLsbD 3 = s.status.keyValid ∧ w.extractLsb' 4 4 = s.status.errcode ∧ w.extractLsb' 8 24 = 0) ∧
  hostReads State.reset 0x04 0 State.reset

/-- R35: a write of `v` to STATUS, whether or not BUSY is 1, clears DONE if bit 1 is set and ERR with ERRCODE if bit 2 is
set; the other bits are ignored and nothing else changes. -/
def Obligations.StatusWriteOneToClear : Prop :=
  ∀ (s : State) (v : Word), s.rst = false →
    hostWrites s 0x04 v { s with status := { s.status with
      done := if v.getLsbD 1 = true then false else s.status.done
      err := if v.getLsbD 2 = true then false else s.status.err
      errcode := if v.getLsbD 2 = true then 0 else s.status.errcode } } ∧
    hostReads s 0x04 (statusWord s.status) s

/-- R36: a write to CMD while BUSY is 0 makes the word pending, sets BUSY and clears DONE, and changes nothing else; while
BUSY is 1 it is dropped with E_BUSY; CMD reads 0. -/
def Obligations.CmdWriteAndRead : Prop :=
  ∀ (s : State) (v : Word), s.rst = false →
    (s.status.busy = false →
      hostWrites s 0x08 v { s with pend := v, status := { s.status with busy := true, done := false } }) ∧
    (s.status.busy = true →
      hostWrites s 0x08 v { s with status := { s.status with err := true, errcode := 4 } }) ∧
    hostReads s 0x08 0 s

/-- R37: KEYw holds key bytes `4w .. 4w+3`, the first in bits 31:24; a write while BUSY is 0 stores the word and clears
KEY_VALID, while BUSY is 1 it is dropped with E_BUSY; KEYw reads 0; the reset value is 0. -/
def Obligations.KeyWriteAndRead : Prop :=
  (∀ (s : State) (w : Fin 8) (v : Word), s.rst = false →
    (s.status.busy = false →
      hostWrites s (0x10 + 4 * w.val) v
        { s with key := s.key.set w v, status := { s.status with keyValid := false } }) ∧
    (s.status.busy = true →
      hostWrites s (0x10 + 4 * w.val) v { s with status := { s.status with err := true, errcode := 4 } }) ∧
    hostReads s (0x10 + 4 * w.val) 0 s) ∧
  (∀ (key : Vector Word 8) (w : Fin 8) (i : Fin 4),
    (keyBytes key)[4 * w.val + i.val]? = some (key[w].extractLsb' (24 - 8 * i.val) 8)) ∧
  ∀ w : Fin 8, State.reset.key[w] = 0

/-- R38: DINw holds bytes `4w .. 4w+3` of the input block, the first in bits 31:24; a write while BUSY is 0 stores the word,
which then reads back, while BUSY is 1 it is dropped with E_BUSY; no command writes DIN; the reset value is 0. -/
def Obligations.DinWriteAndRead : Prop :=
  (∀ (s : State) (w : Fin 4) (v : Word), s.rst = false →
    (s.status.busy = false → hostWrites s (0x30 + 4 * w.val) v { s with din := s.din.set w v } ∧
      hostReads { s with din := s.din.set w v } (0x30 + 4 * w.val) v { s with din := s.din.set w v }) ∧
    (s.status.busy = true →
      hostWrites s (0x30 + 4 * w.val) v { s with status := { s.status with err := true, errcode := 4 } }) ∧
    hostReads s (0x30 + 4 * w.val) s.din[w] s) ∧
  (∀ (s : State) (w i : Fin 4), (dinBlock s)[4 * w.val + i.val] = s.din[w].extractLsb' (24 - 8 * i.val) 8) ∧
  (∀ (i : Instr) (s t : State), exec i s = .next t → t.din = s.din) ∧
  ∀ w : Fin 4, State.reset.din[w] = 0

/-- R39, R316: DOUTw holds bytes `4w .. 4w+3` of the output block; it reads back while BUSY is 0 and reads a free value while
BUSY is 1; host writes are ignored without error; a command that raises an error leaves it; the reset value is 0. -/
def Obligations.DoutReadAndWrite : Prop :=
  (∀ (o : Block) (s : State) (w i : Fin 4),
    (setDout o s).dout[w].extractLsb' (24 - 8 * i.val) 8 = o[4 * w.val + i.val]) ∧
  (∀ (s : State) (w : Fin 4) (v : Word), s.rst = false →
    hostWrites s (0x40 + 4 * w.val) v s ∧
    (s.status.busy = false → hostReads s (0x40 + 4 * w.val) s.dout[w] s) ∧
    (s.status.busy = true →
      hostReads s (0x40 + 4 * w.val) (Config.freeWord s.draws) { s with draws := s.draws + 1 })) ∧
  (∀ s t : State, step s = .next t → t.dout ≠ s.dout →
    assertNext s ∨ (engineNext s ∧ ∃ i, pending s s.pend ∧ decode s.pend = .ok i ∧
      i ≠ .keyExpand ∧ i ≠ .chainReset ∧
      ((i = .encrypt ∨ i = .decrypt ∨ (∃ n, i = .encryptFinal n) ∨ ∃ n, i = .addRoundKey n) →
        s.status.keyValid = true) ∧
      (∀ n, i = .addRoundKey n → n ≤ s.nr.toNat) ∧
      t.status = { s.status with busy := false, done := true })) ∧
  (∀ (e : EngineError) (s : State), (raise e s).dout = s.dout) ∧
  ∀ w : Fin 4, State.reset.dout[w] = 0

/-- R68: a reserved offset reads 0 and ignores what is written, with no engine error and no bus error, whether or not BUSY
is 1. -/
def Obligations.ReservedOffsets : Prop :=
  ∀ (s : State) (off : Nat) (v : Word), s.rst = false → off % 4 = 0 → off = 0x0C ∨ (0x50 ≤ off ∧ off ≤ 0xFC) →
    hostReads s off 0 s ∧ hostWrites s off v s

/-- R278: while BUSY is 1 a write to CTRL, CMD, KEYn or DINn is dropped and sets ERR and code 4 and nothing else; writes to
STATUS, DOUT and the reserved offsets never raise it: they keep ERR and ERRCODE or clear both; and the pending command then completes as if the write had not been
made: the same outcome, but for ERR and ERRCODE = 4 kept where the command itself raises nothing. -/
def Obligations.BusyWritesAreDropped : Prop :=
  (∀ (s : State) (off : Nat) (v : Word), s.rst = false → s.status.busy = true → off % 4 = 0 →
    off = 0x00 ∨ off = 0x08 ∨ (0x10 ≤ off ∧ off ≤ 0x3C) →
    hostWrites s off v { s with status := { s.status with err := true, errcode := 4 } }) ∧
  (∀ (s : State) (off : Nat) (v : Word), s.rst = false → s.status.busy = true → off < 0x100 → off % 4 = 0 →
    off = 0x04 ∨ off = 0x0C ∨ 0x40 ≤ off →
    ∃ t, hostWrites s off v t ∧ (off ≠ 0x04 → t = s) ∧ t = { s with status := t.status } ∧
      t.status.busy = true ∧ t.status.keyValid = s.status.keyValid ∧ (s.status.done = false → t.status.done = false) ∧
      ((t.status.err = s.status.err ∧ t.status.errcode = s.status.errcode) ∨
        (t.status.err = false ∧ t.status.errcode = 0))) ∧
  ∀ (i : Instr) (s t : State), exec i s = .next t →
    ∃ u, exec i { s with status := { s.status with err := true, errcode := 4 } } = .next u ∧
      (u = { t with status := { t.status with err := true, errcode := 4 } } ∨ (u = t ∧ ∃ e, t = raise e s))

/-- 20_memory.md sections 2 to 4 (derived): no read, of whatever address and width, changes any state of the engine; nor does
any access outside the window, which is another slave's (log 8).  The model's choices under `rst`: an inadmissible access in
the window is a bus error there too (log 11), an admitted write is acknowledged without effect (log 17). -/
def Obligations.ReadsHaveNoSideEffect : Prop :=
  (∀ (s : State) (addr width : Nat) (rest : List Turn),
    ∃ t, step { s with schedule := .host (.read addr width) :: rest } = .next t ∧ sameEngine s t ∧ t.schedule = rest) ∧
  (∀ (s : State) (addr width : Nat) (v : Word) (rest : List Turn),
    addr < Config.base ∨ Config.base + 0x100 ≤ addr →
    step { s with schedule := .host (.read addr width) :: rest } = .next { s with
      schedule := rest, bus := ⟨.read addr width, .notSelected⟩ :: s.bus } ∧
    step { s with schedule := .host (.write addr width v) :: rest } = .next { s with
      schedule := rest, bus := ⟨.write addr width v, .notSelected⟩ :: s.bus }) ∧
  ∀ (s : State) (off width : Nat) (v : Word) (rest : List Turn), s.rst = true → off < 0x100 →
    (width ≠ 4 ∨ off % 4 ≠ 0 →
      step { s with schedule := .host (.read (Config.base + off) width) :: rest } = .next { s with
        schedule := rest, bus := ⟨.read (Config.base + off) width, .busError⟩ :: s.bus } ∧
      step { s with schedule := .host (.write (Config.base + off) width v) :: rest } = .next { s with
        schedule := rest, bus := ⟨.write (Config.base + off) width v, .busError⟩ :: s.bus }) ∧
    (off % 4 = 0 → hostWrites s off v s)

/-- R44: the interrupt output is DONE with its enable or ERR with its enable, read at the bits of the two registers, and is 0
after reset. -/
def Obligations.IrqLevel : Prop :=
  (∀ s : State, s.irq =
    (((statusWord s.status).getLsbD 1 && (ctrlWord s.ctrl).getLsbD 4) ||
     ((statusWord s.status).getLsbD 2 && (ctrlWord s.ctrl).getLsbD 5))) ∧
  State.reset.irq = false

/-- 10_state.md section 4 (derived): while a command is pending, no host access changes an operand, a result or the pending
word, and BUSY, DONE = 0 and KEY_VALID stay. -/
def Obligations.PendingCommandKeepsItsOperands : Prop :=
  ∀ (s : State) (a : Access) (rest : List Turn), s.status.busy = true →
    ∃ t, step { s with schedule := .host a :: rest } = .next t ∧
      t = { s with schedule := rest, bus := t.bus, draws := t.draws, status := t.status } ∧
      t.status.busy = true ∧ t.status.keyValid = s.status.keyValid ∧ (s.status.done = false → t.status.done = false)

/-! ### The commands -/

/-- R186, R276: KEY_EXPAND.  Success for the two legal key sizes (schedule of 11 or 15 round keys, NR, CV, KEY_VALID, everything
else unchanged), E_KEYSIZE for the other two codes, KEY4..KEY7 unread for a 128-bit key, the same RK when repeated, the
encoding and the example. -/
def Obligations.KeyExpandCommand : Prop :=
  encode .keyExpand = 0x00000001#32 ∧ decode 0x00000001#32 = .ok .keyExpand ∧
  (∀ (s : State) (nb nr : Nat),
    (s.ctrl.keysize = 0b00#2 ∧ nb = 1 ∧ nr = 10) ∨ (s.ctrl.keysize = 0b10#2 ∧ nb = 2 ∧ nr = 14) →
    ∃ t, exec .keyExpand s = .next t ∧
      t.rk.toList.take (nr + 1) = expand ((keyBytes s.key).take (16 * nb)) nb nr ∧
      t.nr.toNat = nr ∧ t.cv = zeroMatrix ∧
      t.status = { s.status with keyValid := true, busy := false, done := true } ∧
      t = { s with rk := t.rk, nr := t.nr, cv := t.cv, status := t.status, draws := t.draws }) ∧
  (∀ s : State, s.ctrl.keysize = 0b01#2 ∨ s.ctrl.keysize = 0b11#2 →
    exec .keyExpand s = .next { s with status :=
      { busy := false, done := true, err := true, keyValid := false, errcode := 2 } }) ∧
  (∀ s s' t t' : State, s.ctrl.keysize = 0b00#2 → s'.ctrl.keysize = 0b00#2 →
    (∀ w : Fin 8, w.val < 4 → s.key[w] = s'.key[w]) →
    exec .keyExpand s = .next t → exec .keyExpand s' = .next t' → t.rk.toList.take 11 = t'.rk.toList.take 11) ∧
  (∀ s t u : State, exec .keyExpand s = .next t → exec .keyExpand t = .next u →
    u.rk.toList.take (t.nr.toNat + 1) = t.rk.toList.take (t.nr.toNat + 1) ∨ t.status.errcode = 2) ∧
  ∀ s : State, s.ctrl.keysize = 0b00#2 → s.key.toList.take 4 = [0x00010203, 0x04050607, 0x08090a0b, 0x0c0d0e0f] →
    ∃ t, exec .keyExpand s = .next t ∧ t.nr = 10#4 ∧ t.status.keyValid = true ∧
      wordsOfBlock (serialize t.rk[1]) = #v[0xd6aa74fd, 0xd2af72fa, 0xdaa678f1, 0xd6ab76fe] ∧
      wordsOfBlock (serialize t.rk[10]) = #v[0x13111d7f, 0xe3944a17, 0xf307a78b, 0x4d2b30c5]

/-- R240: CHAIN_RESET zeroes CV and completes, in every state; everything else is unchanged.  After it, a CBC encryption
gives the ECB answer, as in the example. -/
def Obligations.ChainResetCommand : Prop :=
  encode .chainReset = 0x00000002#32 ∧ decode 0x00000002#32 = .ok .chainReset ∧
  (∀ s : State, exec .chainReset s =
    .next { s with cv := zeroMatrix, status := { s.status with busy := false, done := true } }) ∧
  (∀ s t u v : State, exec .chainReset s = .next t → exec .encrypt t = .next u →
    exec .encrypt { t with ctrl := { t.ctrl with mode := .ecb } } = .next v → u.dout = v.dout) ∧
  ∀ s t u v : State, s.ctrl.keysize = 0b00#2 → s.ctrl.mode = .cbc →
    s.key.toList.take 4 = [0x00010203, 0x04050607, 0x08090a0b, 0x0c0d0e0f] →
    s.din = #v[0x00112233, 0x44556677, 0x8899aabb, 0xccddeeff] →
    exec .keyExpand s = .next t → exec .encrypt t = .next u → exec .chainReset u = .next v →
    ∃ x, exec .encrypt v = .next x ∧ x.dout = #v[0x69c4e0d8, 0x6a7b0430, 0xd8cdb780, 0x70b4c55a]

/-- R236: ENCRYPT.  With KEY_VALID = 1 and the schedule's round count it completes in both modes; ECB neither reads nor writes
CV, CBC XORs CV in and replaces it; the first CBC block equals ECB, equal blocks differ unless the CVs are equal; without a
key it raises E_NO_KEY; the encoding and the examples. -/
def Obligations.EncryptCommand : Prop :=
  encode .encrypt = 0x00000010#32 ∧ decode 0x00000010#32 = .ok .encrypt ∧
  (∀ s : State, s.status.keyValid = true → s.nr = 10#4 ∨ s.nr = 14#4 →
    (s.ctrl.mode = .ecb → ∃ t, exec .encrypt s = .next t ∧
      load (blockOfWords t.dout) = cipher (load (dinBlock s)) s.rk.toList s.nr.toNat ∧
      t = { s with dout := t.dout, status := { s.status with busy := false, done := true } }) ∧
    (s.ctrl.mode = .cbc → ∃ t, exec .encrypt s = .next t ∧
      t.cv = cipher (combine (load (dinBlock s)) s.cv) s.rk.toList s.nr.toNat ∧
      load (blockOfWords t.dout) = t.cv ∧
      t = { s with dout := t.dout, cv := t.cv, status := { s.status with busy := false, done := true } })) ∧
  (∀ s : State, s.status.keyValid = false → exec .encrypt s = .next { s with status :=
    { busy := false, done := true, err := true, keyValid := false, errcode := 3 } }) ∧
  (∀ s t u : State, s.cv = zeroMatrix → exec .encrypt { s with ctrl := { s.ctrl with mode := .cbc } } = .next t →
    exec .encrypt { s with ctrl := { s.ctrl with mode := .ecb } } = .next u → t.dout = u.dout) ∧
  (∀ (s t u : State) (V : ByteMatrix), s.ctrl.mode = .cbc → s.status.keyValid = true →
    exec .encrypt s = .next t → exec .encrypt { s with cv := V } = .next u → (t.dout = u.dout ↔ s.cv = V)) ∧
  ∀ s t : State, s.ctrl.keysize = 0b00#2 →
    s.key.toList.take 4 = [0x00010203, 0x04050607, 0x08090a0b, 0x0c0d0e0f] →
    s.din = #v[0x00112233, 0x44556677, 0x8899aabb, 0xccddeeff] → exec .keyExpand s = .next t →
    ∃ u, exec .encrypt t = .next u ∧ u.dout = #v[0x69c4e0d8, 0x6a7b0430, 0xd8cdb780, 0x70b4c55a] ∧
      (s.ctrl.mode = .cbc →
        ∃ v, exec .encrypt u = .next v ∧ v.dout = #v[0x7d7786be, 0x32d059a6, 0x0ca8021a, 0x65dd9f09])

/-- R237: DECRYPT.  With KEY_VALID = 1 and the schedule's round count it completes in both modes; CBC XORs the previous CV into
the output and sets CV to the ciphertext that was input; without a key it raises E_NO_KEY; the encoding and the example. -/
def Obligations.DecryptCommand : Prop :=
  encode .decrypt = 0x00000011#32 ∧ decode 0x00000011#32 = .ok .decrypt ∧
  (∀ s : State, s.status.keyValid = true → s.nr = 10#4 ∨ s.nr = 14#4 →
    (s.ctrl.mode = .ecb → ∃ t, exec .decrypt s = .next t ∧
      load (blockOfWords t.dout) = invCipher (load (dinBlock s)) s.rk.toList s.nr.toNat ∧
      t = { s with dout := t.dout, status := { s.status with busy := false, done := true } }) ∧
    (s.ctrl.mode = .cbc → ∃ t, exec .decrypt s = .next t ∧
      load (blockOfWords t.dout) = combine (invCipher (load (dinBlock s)) s.rk.toList s.nr.toNat) s.cv ∧
      t.cv = load (dinBlock s) ∧
      t = { s with dout := t.dout, cv := t.cv, status := { s.status with busy := false, done := true } })) ∧
  (∀ s : State, s.status.keyValid = false → exec .decrypt s = .next { s with status :=
    { busy := false, done := true, err := true, keyValid := false, errcode := 3 } }) ∧
  ∀ s t : State, s.ctrl.keysize = 0b00#2 → s.ctrl.mode = .ecb →
    s.key.toList.take 4 = [0x00010203, 0x04050607, 0x08090a0b, 0x0c0d0e0f] →
    s.din = #v[0x69c4e0d8, 0x6a7b0430, 0xd8cdb780, 0x70b4c55a] → exec .keyExpand s = .next t →
    ∃ u, exec .decrypt t = .next u ∧ u.dout = #v[0x00112233, 0x44556677, 0x8899aabb, 0xccddeeff]

/-- R239: ENCRYPT_FINAL.  For every LEN in 0..15 it is ENCRYPT of the padded block: it completes in both modes and does not
read DIN bytes `LEN..15`; LEN = 0 gives the full pad block; without a key it raises E_NO_KEY; the encoding and the
examples. -/
def Obligations.EncryptFinalCommand : Prop :=
  (∀ len, len ≤ 15 → encode (.encryptFinal len) = 0x00000012#32 ||| (BitVec.ofNat 32 len <<< 8) ∧
    decode (0x00000012#32 ||| (BitVec.ofNat 32 len <<< 8)) = .ok (.encryptFinal len)) ∧
  (∀ (s : State) (len : Nat), len ≤ 15 → s.status.keyValid = true → s.nr = 10#4 ∨ s.nr = 14#4 →
    (s.ctrl.mode = .ecb → ∃ t, exec (.encryptFinal len) s = .next t ∧
      load (blockOfWords t.dout) = cipher (load (padBlock (dinBlock s) len)) s.rk.toList s.nr.toNat ∧
      t = { s with dout := t.dout, status := { s.status with busy := false, done := true } }) ∧
    (s.ctrl.mode = .cbc → ∃ t, exec (.encryptFinal len) s = .next t ∧
      t.cv = cipher (combine (load (padBlock (dinBlock s) len)) s.cv) s.rk.toList s.nr.toNat ∧
      load (blockOfWords t.dout) = t.cv ∧
      t = { s with dout := t.dout, cv := t.cv, status := { s.status with busy := false, done := true } })) ∧
  (∀ (s : State) (len : Nat), len ≤ 15 → s.status.keyValid = false → exec (.encryptFinal len) s =
    .next { s with status := { busy := false, done := true, err := true, keyValid := false, errcode := 3 } }) ∧
  (∀ (s t u : State) (len : Nat) (d : Vector Word 4), len ≤ 15 →
    (∀ p : Fin 16, p.val < len → (blockOfWords d)[p] = (dinBlock s)[p]) →
    exec (.encryptFinal len) s = .next t → exec (.encryptFinal len) { s with din := d } = .next u →
    t.dout = u.dout ∧ t.cv = u.cv) ∧
  (∀ b : Block, padBlock b 0 = Vector.replicate 16 0x10#8) ∧
  (∀ b : Block, (padBlock b 15)[15] = 0x01#8) ∧
  ∀ s t : State, s.ctrl.keysize = 0b00#2 → s.ctrl.mode = .ecb →
    s.key.toList.take 4 = [0x00010203, 0x04050607, 0x08090a0b, 0x0c0d0e0f] → exec .keyExpand s = .next t →
    (∃ u, exec (.encryptFinal 0) t = .next u ∧ u.dout = #v[0x954f64f2, 0xe4e86e9e, 0xee82d202, 0x16684899]) ∧
    (s.din[0] = 0x48656c6c#32 → s.din[1].extractLsb' 24 8 = 0x6f#8 →
      ∃ u, exec (.encryptFinal 5) t = .next u ∧ u.dout = #v[0x94e11c4e, 0x7b21b9e6, 0x6c0082a5, 0x089604ea])

/-- R155: SUB_BYTES completes in every state: every byte of DOUT is the S-box image of the byte of DIN at its place, and nothing
else changes but BUSY and DONE; the encoding, the corner cases and the example. -/
def Obligations.SubBytesCommand : Prop :=
  encode .subBytes = 0x00000020#32 ∧ decode 0x00000020#32 = .ok .subBytes ∧
  (∀ s : State, ∃ t, exec .subBytes s = .next t ∧
    (∀ w i : Fin 4, wordByte t.dout[w] i.val = sbox (wordByte s.din[w] i.val)) ∧
    t = { s with dout := t.dout, status := { s.status with busy := false, done := true } }) ∧
  sbox 0x00 = 0x63#8 ∧ sbox 0xFF = 0x16#8 ∧ (∀ x : Byte, sbox x ≠ x) ∧
  ∀ s : State, s.din = #v[0x00112233, 0x44556677, 0x8899aabb, 0xccddeeff] →
    ∃ t, exec .subBytes s = .next t ∧ t.dout = #v[0x638293c3, 0x1bfc33f5, 0xc4eeacea, 0x4bc12816]

/-- R156: INV_SUB_BYTES completes in every state: every byte of DOUT is the inverse S-box image of the byte of DIN at its place,
and nothing else changes but BUSY and DONE; it undoes SUB_BYTES; the encoding, the corner cases and the example. -/
def Obligations.InvSubBytesCommand : Prop :=
  encode .invSubBytes = 0x00000021#32 ∧ decode 0x00000021#32 = .ok .invSubBytes ∧
  (∀ s : State, ∃ t, exec .invSubBytes s = .next t ∧
    (∀ w i : Fin 4, wordByte t.dout[w] i.val = invSbox (wordByte s.din[w] i.val)) ∧
    t = { s with dout := t.dout, status := { s.status with busy := false, done := true } }) ∧
  invSbox 0x63 = 0x00#8 ∧ invSbox 0x00 = 0x52#8 ∧
  (∀ s t : State, exec .subBytes s = .next t →
    ∃ u, exec .invSubBytes { t with din := t.dout } = .next u ∧ u.dout = s.din) ∧
  ∀ s : State, s.din = #v[0x638293c3, 0x1bfc33f5, 0xc4eeacea, 0x4bc12816] →
    ∃ t, exec .invSubBytes s = .next t ∧ t.dout = #v[0x00112233, 0x44556677, 0x8899aabb, 0xccddeeff]

/-- R157: SHIFT_ROWS completes in every state: row `r` of the block (byte `r` of each word) is rotated left by `r` words, and
nothing else changes but BUSY and DONE; row 0 never moves, constant rows are unchanged, four in sequence are the identity;
the encoding and the example. -/
def Obligations.ShiftRowsCommand : Prop :=
  encode .shiftRows = 0x00000022#32 ∧ decode 0x00000022#32 = .ok .shiftRows ∧
  (∀ s : State, ∃ t, exec .shiftRows s = .next t ∧
    (∀ w r : Fin 4, wordByte t.dout[w] r.val = wordByte s.din[w + r] r.val) ∧
    t = { s with dout := t.dout, status := { s.status with busy := false, done := true } }) ∧
  (∀ s t : State, exec .shiftRows s = .next t →
    (∀ w : Fin 4, wordByte t.dout[w] 0 = wordByte s.din[w] 0) ∧
    ((∀ w r : Fin 4, wordByte s.din[w] r.val = wordByte s.din[0] r.val) → t.dout = s.din)) ∧
  (∀ s : State, ∃ t, runCopying [.shiftRows, .shiftRows, .shiftRows, .shiftRows] s = some t ∧ t.dout = s.din) ∧
  ∀ s : State, s.din = #v[0x00010203, 0x04050607, 0x08090a0b, 0x0c0d0e0f] →
    ∃ t, exec .shiftRows s = .next t ∧ t.dout = #v[0x00050a0f, 0x04090e03, 0x080d0207, 0x0c01060b]

/-- R158: INV_SHIFT_ROWS completes in every state: row `r` of the block is rotated right by `r` words, and nothing else changes
but BUSY and DONE; the corner cases of R157 hold of it, row 2 moves as in SHIFT_ROWS; the encoding and the example. -/
def Obligations.InvShiftRowsCommand : Prop :=
  encode .invShiftRows = 0x00000023#32 ∧ decode 0x00000023#32 = .ok .invShiftRows ∧
  (∀ s : State, ∃ t, exec .invShiftRows s = .next t ∧
    (∀ w r : Fin 4, wordByte t.dout[w] r.val = wordByte s.din[w - r] r.val) ∧
    t = { s with dout := t.dout, status := { s.status with busy := false, done := true } }) ∧
  (∀ s t : State, exec .invShiftRows s = .next t →
    (∀ w : Fin 4, wordByte t.dout[w] 0 = wordByte s.din[w] 0 ∧
      ∀ u, exec .shiftRows s = .next u → wordByte t.dout[w] 2 = wordByte u.dout[w] 2) ∧
    ((∀ w r : Fin 4, wordByte s.din[w] r.val = wordByte s.din[0] r.val) → t.dout = s.din)) ∧
  (∀ s : State, ∃ t, runCopying [.invShiftRows, .invShiftRows, .invShiftRows, .invShiftRows] s = some t ∧
    t.dout = s.din) ∧
  ∀ s : State, s.din = #v[0x00010203, 0x04050607, 0x08090a0b, 0x0c0d0e0f] →
    ∃ t, exec .invShiftRows s = .next t ∧ t.dout = #v[0x000d0a07, 0x04010e0b, 0x0805020f, 0x0c090603]

/-- R159: MIX_COLUMNS completes in every state: each word of DOUT is the circulant [2,3,1,1] times the word of DIN at its place,
and nothing else changes but BUSY and DONE; zero and constant columns are unchanged, the map is linear; the encoding and the
example. -/
def Obligations.MixColumnsCommand : Prop :=
  encode .mixColumns = 0x00000024#32 ∧ decode 0x00000024#32 = .ok .mixColumns ∧
  (∀ s : State, ∃ t, exec .mixColumns s = .next t ∧
    (∀ w i : Fin 4, wordByte t.dout[w] i.val =
      gmul (wordByte s.din[w] i.val) 2 ^^^ gmul (wordByte s.din[w] (i + 1).val) 3 ^^^
        wordByte s.din[w] (i + 2).val ^^^ wordByte s.din[w] (i + 3).val) ∧
    t = { s with dout := t.dout, status := { s.status with busy := false, done := true } }) ∧
  mixColumn ⟨0, 0, 0, 0⟩ = ⟨0, 0, 0, 0⟩ ∧ (∀ v : Byte, mixColumn ⟨v, v, v, v⟩ = ⟨v, v, v, v⟩) ∧
  (∀ S T : ByteMatrix, mixColumns (combine S T) = combine (mixColumns S) (mixColumns T)) ∧
  ∀ s : State, s.din = #v[0xdb135345, 0xf20a225c, 0x01010101, 0xc6c6c6c6] →
    ∃ t, exec .mixColumns s = .next t ∧ t.dout = #v[0x8e4da1bc, 0x9fdc589d, 0x01010101, 0xc6c6c6c6]

/-- R160: INV_MIX_COLUMNS completes in every state: each word of DOUT is the circulant [14,11,13,9] times the word of DIN at its
place, and nothing else changes but BUSY and DONE; zero and constant columns are unchanged, it undoes MIX_COLUMNS; the
encoding and the example. -/
def Obligations.InvMixColumnsCommand : Prop :=
  encode .invMixColumns = 0x00000025#32 ∧ decode 0x00000025#32 = .ok .invMixColumns ∧
  (∀ s : State, ∃ t, exec .invMixColumns s = .next t ∧
    (∀ w i : Fin 4, wordByte t.dout[w] i.val =
      gmul (wordByte s.din[w] i.val) 14 ^^^ gmul (wordByte s.din[w] (i + 1).val) 11 ^^^
        gmul (wordByte s.din[w] (i + 2).val) 13 ^^^ gmul (wordByte s.din[w] (i + 3).val) 9) ∧
    t = { s with dout := t.dout, status := { s.status with busy := false, done := true } }) ∧
  inverseMixColumn ⟨0, 0, 0, 0⟩ = ⟨0, 0, 0, 0⟩ ∧ (∀ v : Byte, inverseMixColumn ⟨v, v, v, v⟩ = ⟨v, v, v, v⟩) ∧
  (∀ s t : State, exec .mixColumns s = .next t →
    ∃ u, exec .invMixColumns { t with din := t.dout } = .next u ∧ u.dout = s.din) ∧
  ∀ s : State, s.din = #v[0x8e4da1bc, 0x9fdc589d, 0x01010101, 0xc6c6c6c6] →
    ∃ t, exec .invMixColumns s = .next t ∧ t.dout = #v[0xdb135345, 0xf20a225c, 0x01010101, 0xc6c6c6c6]

/-- R162, R279: ADD_ROUND_KEY.  With KEY_VALID = 1 and `RKIDX <= NR` it completes: DOUT is DIN XOR the round key, byte by byte, and
nothing else changes but BUSY and DONE; `RKIDX > NR` raises E_RKIDX; without a key it raises E_NO_KEY, whatever RKIDX; the
encoding, the corner cases and the examples.  (`NR <= 14` is no restriction on a state a run reaches: `EngineInv`.) -/
def Obligations.AddRoundKeyCommand : Prop :=
  (∀ idx, idx ≤ 15 → encode (.addRoundKey idx) = 0x00000026#32 ||| (BitVec.ofNat 32 idx <<< 16) ∧
    decode (0x00000026#32 ||| (BitVec.ofNat 32 idx <<< 16)) = .ok (.addRoundKey idx)) ∧
  (∀ (s : State) (idx : Fin 15), s.status.keyValid = true → idx.val ≤ s.nr.toNat →
    ∃ t, exec (.addRoundKey idx.val) s = .next t ∧
      (∀ w i : Fin 4, wordByte t.dout[w] i.val = wordByte s.din[w] i.val ^^^ entry s.rk[idx] i w) ∧
      t = { s with dout := t.dout, status := { s.status with busy := false, done := true } } ∧
      (s.din = Vector.replicate 4 0 → load (blockOfWords t.dout) = s.rk[idx]) ∧
      (load (dinBlock s) = s.rk[idx] → t.dout = Vector.replicate 4 0)) ∧
  (∀ (s : State) (idx : Nat), s.status.keyValid = true → s.nr.toNat < idx →
    exec (.addRoundKey idx) s = .next { s with status :=
      { busy := false, done := true, err := true, keyValid := true, errcode := 5 } }) ∧
  (∀ (s : State) (idx : Nat), s.status.keyValid = false → exec (.addRoundKey idx) s = .next { s with status :=
    { busy := false, done := true, err := true, keyValid := false, errcode := 3 } }) ∧
  ∀ s t : State, s.ctrl.keysize = 0b00#2 →
    s.key.toList.take 4 = [0x00010203, 0x04050607, 0x08090a0b, 0x0c0d0e0f] → exec .keyExpand s = .next t →
    (s.din = #v[0x00112233, 0x44556677, 0x8899aabb, 0xccddeeff] → ∃ u, exec (.addRoundKey 0) t = .next u ∧
      u.dout = #v[0x00102030, 0x40506070, 0x8090a0b0, 0xc0d0e0f0]) ∧
    (s.din = Vector.replicate 4 0 → ∃ u, exec (.addRoundKey 10) t = .next u ∧
      u.dout = #v[0x13111d7f, 0xe3944a17, 0xf307a78b, 0x4d2b30c5])

/-- R277: ENCRYPT, DECRYPT, ENCRYPT_FINAL and ADD_ROUND_KEY with KEY_VALID = 0 record E_NO_KEY (code 3); DOUT, CV and everything
else but STATUS are unchanged; KEY_VALID is 0 after reset, after a KEYn write and after a failed KEY_EXPAND. -/
def Obligations.NoKeyError : Prop :=
  (∀ (s : State) (n : Nat) (i : Instr), s.status.keyValid = false →
    i = .encrypt ∨ i = .decrypt ∨ i = .encryptFinal n ∨ i = .addRoundKey n →
    exec i s = .next { s with status :=
      { busy := false, done := true, err := true, keyValid := false, errcode := 3 } }) ∧
  State.reset.status.keyValid = false ∧
  (∀ (s : State) (w : Fin 8) (v : Word), s.rst = false → s.status.busy = false →
    ∃ t, hostWrites s (0x10 + 4 * w.val) v t ∧ t.status.keyValid = false) ∧
  ∀ s t : State, s.ctrl.keysize = 0b01#2 ∨ s.ctrl.keysize = 0b11#2 → exec .keyExpand s = .next t →
    t.status.keyValid = false

/-- 60_exceptions.md sections 3 and 4, 10_state.md section 4 (derived): a command that answers a next state leaves BUSY 0 and
DONE 1, and either succeeds, keeping ERR and ERRCODE, or raises one error and changes nothing but STATUS; E_KEYSIZE belongs
to KEY_EXPAND, E_RKIDX to ADD_ROUND_KEY, E_NO_KEY to a command that found no key. -/
def Obligations.CommandsSucceedOrRaiseOneError : Prop :=
  ∀ (i : Instr) (s t : State), exec i s = .next t →
    t.status.busy = false ∧ t.status.done = true ∧
    ((t.status.err = s.status.err ∧ t.status.errcode = s.status.errcode ∧
        (t.status.keyValid = s.status.keyValid ∨ (i = .keyExpand ∧ t.status.keyValid = true))) ∨
     ∃ e, (e = .keySize ∧ i = .keyExpand ∨
           e = .noKey ∧ s.status.keyValid = false ∨
           e = .rkIdx ∧ s.status.keyValid = true ∧ ∃ n, i = .addRoundKey n) ∧
       t = { s with status :=
         { busy := false
           done := true
           err := true
           keyValid := if e = .keySize then false else s.status.keyValid
           errcode := errorCode e } })

/-- 10_state.md sections 5 to 7 (derived), the frame of every command: no command changes CTRL, KEY, DIN, PEND, `rst` or the
host's schedule and bus log; only KEY_EXPAND changes RK, NR or the draw counter; only KEY_EXPAND, CHAIN_RESET and, in CBC,
ENCRYPT, DECRYPT and ENCRYPT_FINAL change CV; KEY_EXPAND and CHAIN_RESET leave DOUT. -/
def Obligations.CommandFrame : Prop :=
  ∀ (i : Instr) (s t : State), exec i s = .next t →
    t.ctrl = s.ctrl ∧ t.key = s.key ∧ t.din = s.din ∧ t.pend = s.pend ∧ t.rst = s.rst ∧
    t.schedule = s.schedule ∧ t.bus = s.bus ∧
    (i ≠ .keyExpand → t.rk = s.rk ∧ t.nr = s.nr ∧ t.draws = s.draws) ∧
    (t.cv ≠ s.cv → i = .keyExpand ∨ i = .chainReset ∨
      (s.ctrl.mode = .cbc ∧ (i = .encrypt ∨ i = .decrypt ∨ ∃ n, i = .encryptFinal n))) ∧
    (i = .keyExpand ∨ i = .chainReset → t.dout = s.dout)

/-! ### Whole-machine rules and invariants -/

/-- R34: KEY_VALID becomes 1 only by a successful KEY_EXPAND; reset, an accepted KEYn write and a KEY_EXPAND that raises
E_KEYSIZE set it to 0, and nothing else does; the four commands that need a key raise E_NO_KEY while it is 0. -/
def Obligations.KeyValidRule : Prop :=
  (∀ s t : State, step s = .next t → s.status.keyValid = false → t.status.keyValid = true →
    engineNext s ∧ pending s 0x00000001#32 ∧ (s.ctrl.keysize = 0b00#2 ∨ s.ctrl.keysize = 0b10#2)) ∧
  (∀ s t : State, step s = .next t → s.status.keyValid = true →
    (t.status.keyValid = false ↔ assertNext s ∨
      (s.status.busy = false ∧ ∃ w v, writeNext s (.key w) v) ∨
      (engineNext s ∧ pending s 0x00000001#32 ∧ (s.ctrl.keysize = 0b01#2 ∨ s.ctrl.keysize = 0b11#2)))) ∧
  (∀ s t : State, exec .keyExpand s = .next t → s.ctrl.keysize = 0b00#2 ∨ s.ctrl.keysize = 0b10#2 →
    t.status.keyValid = true) ∧
  ∀ (s t : State) (n : Nat) (i : Instr), s.status.keyValid = false →
    i = .encrypt ∨ i = .decrypt ∨ i = .encryptFinal n ∨ i = .addRoundKey n → exec i s = .next t →
    t.status.err = true ∧ t.status.errcode = 3

/-- 10_state.md section 8 (derived): what can move each flag of STATUS in one step.  BUSY rises only by a CMD write and falls
only by completion or reset; DONE rises only by completion and falls only by a CMD write, write-1-to-clear or reset; ERR
rises only by a completing command or a write dropped while BUSY, and falls only by write-1-to-clear or reset; ERRCODE
changes only by a completion that raises an error, to its code, by a write dropped while BUSY, to 4, and by
write-1-to-clear of ERR or reset, to 0. -/
def Obligations.FlagsMoveOnlyByTheirRules : Prop :=
  ∀ s t : State, step s = .next t →
    (s.status.busy = false → t.status.busy = true → ∃ v, writeNext s .cmd v) ∧
    (s.status.busy = true → t.status.busy = false → assertNext s ∨ (engineNext s ∧ pending s s.pend)) ∧
    (s.status.done = false → t.status.done = true → engineNext s ∧ pending s s.pend) ∧
    (s.status.done = true → t.status.done = false → assertNext s ∨
      (s.status.busy = false ∧ ∃ v, writeNext s .cmd v) ∨ ∃ v, v.getLsbD 1 = true ∧ writeNext s .status v) ∧
    (s.status.err = false → t.status.err = true → (engineNext s ∧ pending s s.pend) ∨
      (s.status.busy = true ∧ ∃ r v, writeNext s r v ∧ r ≠ .status ∧ r ≠ .reserved ∧ ∀ w, r ≠ .dout w)) ∧
    (s.status.err = true → t.status.err = false → assertNext s ∨ ∃ v, v.getLsbD 2 = true ∧ writeNext s .status v) ∧
    (t.status.errcode ≠ s.status.errcode →
      (assertNext s ∧ t.status.errcode = 0) ∨
      (engineNext s ∧ pending s s.pend ∧ t.status.err = true ∧ ∃ e, e ≠ .busy ∧ t.status.errcode = errorCode e) ∨
      (s.status.busy = true ∧ t.status.err = true ∧ t.status.errcode = 4 ∧
        ∃ r v, writeNext s r v ∧ r ≠ .status ∧ r ≠ .reserved ∧ ∀ w, r ≠ .dout w) ∨
      (t.status.errcode = 0 ∧ ∃ v, v.getLsbD 2 = true ∧ writeNext s .status v))

/-- 10_state.md section 7 (derived): RK and NR change only by a successful KEY_EXPAND or by asserting `rst`, and CV only by
those, CHAIN_RESET, or a CBC command. -/
def Obligations.InternalStateMovesOnlyByItsCommands : Prop :=
  ∀ s t : State, step s = .next t →
    ((t.rk ≠ s.rk ∨ t.nr ≠ s.nr) → assertNext s ∨ (engineNext s ∧ pending s 0x00000001#32 ∧
      (s.ctrl.keysize = 0b00#2 ∨ s.ctrl.keysize = 0b10#2))) ∧
    (t.cv ≠ s.cv → assertNext s ∨ (engineNext s ∧ ∃ i, pending s (encode i) ∧
      (i = .keyExpand ∨ i = .chainReset ∨
        (s.ctrl.mode = .cbc ∧ (i = .encrypt ∨ i = .decrypt ∨ ∃ n, n ≤ 15 ∧ i = .encryptFinal n)))))

/-- The invariant of the machine, kept by every step from every state that has it (derived; 10_state.md sections 4, 7 and 8,
60_exceptions.md sections 1 and 5, 43_round_engine.md): BUSY excludes DONE, ERR goes with a non-zero unreserved code,
KEY_VALID means RK and NR hold the schedule of the key registers, and `rst` holds STATUS at reset. -/
def Obligations.InvariantIsKept : Prop :=
  ∀ s t : State, EngineInv s → step s = .next t → EngineInv t

/-- The state after reset has the invariant (derived; its RK and NR are the model's choice, log 3, and no clause rests on
their values). -/
def Obligations.InvariantAtReset : Prop := EngineInv State.reset

/-- From a state that has the invariant no step faults or is refused (derived; 43_round_engine.md, 60_exceptions.md): the Round
Engine's precondition and the bound of the round-key store always hold when they are needed. -/
def Obligations.ReachableStepsNeverStop : Prop :=
  ∀ s : State, EngineInv s → ∃ t, step s = .next t

/-- 43_round_engine.md (R212, 93 U9) and 00_scope.md section 3 (derived; the forms of the stops are the model's choice, log 7):
the only stops of any command are the block commands outside the Round Engine's domain and a round key the 15-entry store
does not have, both with KEY_VALID = 1. -/
def Obligations.StopsAreOutsideTheRoundEngineDomain : Prop :=
  ∀ (i : Instr) (s : State),
    ((∃ r, exec i s = .refused r) ↔ s.status.keyValid = true ∧ s.nr ≠ 10#4 ∧ s.nr ≠ 14#4 ∧
      (i = .encrypt ∨ i = .decrypt ∨ ∃ n, i = .encryptFinal n)) ∧
    ((∃ r, exec i s = .fault r) ↔ s.status.keyValid = true ∧ s.nr = 15#4 ∧ i = .addRoundKey 15) ∧
    (∀ r, exec i s = .refused r → r = .roundKeysOutOfDomain) ∧ ∀ r, exec i s = .fault r → r = .noSuchRoundKey

/-- 10_state.md section 7 (derived): while KEY_VALID is 0 nothing depends on RK or NR.  Two states that differ only in them
step to states that differ only in them, with the same STATUS, DOUT and bus answers, and to equal states once KEY_VALID
is 1.  The spec leaves RK[NR+1..14] open then (R40); that these agree too, and that free reads (DOUT while BUSY, any register
under `rst`) give both the same word, is the model's choice: its free values are functions of the draw counter, which the two
states share (log 4, 5, 6). -/
def Obligations.UnspecifiedScheduleIsUnobservable : Prop :=
  ∀ s t : State, sameButSchedule s t → s.status.keyValid = false →
    ∃ s' t', step s = .next s' ∧ step t = .next t' ∧ sameButSchedule s' t' ∧
      (s'.status.keyValid = true → s' = t')

/-! ### The algorithms -/

/-- R128: serialize and load are inverse to each other. -/
def Obligations.LoadSerializeInverse : Prop :=
  (∀ b : Block, serialize (load b) = b) ∧ ∀ S : ByteMatrix, load (serialize S) = S

/-- R152, R153: each inverse transform undoes its forward transform and the reverse, and substitution commutes with the
rotation of rows. -/
def Obligations.TransformsAreInverses : Prop :=
  (∀ S : ByteMatrix, inverseSubstitute (substitute S) = S ∧ substitute (inverseSubstitute S) = S) ∧
  (∀ S : ByteMatrix, inverseShiftRows (shiftRows S) = S ∧ shiftRows (inverseShiftRows S) = S) ∧
  (∀ S : ByteMatrix, inverseMixColumns (mixColumns S) = S ∧ mixColumns (inverseMixColumns S) = S) ∧
  ∀ S : ByteMatrix, substitute (shiftRows S) = shiftRows (substitute S) ∧
    inverseSubstitute (inverseShiftRows S) = inverseShiftRows (inverseSubstitute S)

/-- R144 and the appendix of 41_state_transforms.md (derived): the printed multiplication tables are the products by 2, 3, 9,
11, 13 and 14. -/
def Obligations.MultiplicationTables : Prop :=
  ∀ k ∈ [2, 3, 9, 11, 13, 14], ∀ x : Byte, mulTable k x = some (gmul x (BitVec.ofNat 8 k))

/-- 41_state_transforms.md section 1 (derived): the printed S-box is the affine image of the multiplicative inverse, with
0 for the inverse of 0, every non-zero byte has an inverse, and the printed inverse S-box is the inverse permutation. -/
def Obligations.SboxIsAffineOfInverse : Prop :=
  sbox 0 = affine 0 ∧ (∀ x : Byte, x ≠ 0 → ∃ y, gmul x y = 1 ∧ sbox x = affine y) ∧
  (∀ x y : Byte, gmul x y = 1 → sbox x = affine y) ∧
  ∀ x : Byte, invSbox (sbox x) = x ∧ sbox (invSbox x) = x

/-- R143: `xtime` shifts and reduces by 0x1B, `gmul` is the shift-and-add product over the bits of its second operand, and it
is commutative with unit 1 and zero 0. -/
def Obligations.FieldProduct : Prop :=
  (∀ b : Byte, (b.getLsbD 7 = false → xtime b = b <<< 1) ∧ (b.getLsbD 7 = true → xtime b = (b <<< 1) ^^^ 0x1B#8)) ∧
  (∀ a b : Byte, gmul a b = (List.range 8).foldl
    (fun p i => if b.getLsbD i = true then p ^^^ xtime^[i] a else p) 0) ∧
  (∀ a b : Byte, gmul a b = gmul b a) ∧ ∀ a : Byte, gmul a 1 = a ∧ gmul a 0 = 0

/-- R185, R187: the Round Key Sequence has rounds+1 matrices, starts with the key itself, and in word form is the recurrence of
R185. -/
def Obligations.ScheduleInWordForm : Prop :=
  ∀ (k : List Byte) (nb nr : Nat), (nb = 1 ∧ nr = 10) ∨ (nb = 2 ∧ nr = 14) → k.length = 16 * nb →
    (expand k nb nr).length = nr + 1 ∧
    (∀ t, t < 4 * nb → ∀ r : Fin 4,
      k[4 * t + r.val]? = some (colByte (scheduleWord (expand k nb nr) t) r)) ∧
    ∀ t, 4 * nb ≤ t → t ≤ 4 * nr + 3 →
      scheduleWord (expand k nb nr) t = xorCol (scheduleWord (expand k nb nr) (t - 4 * nb))
        (if t % (4 * nb) = 0 then
          xorCol (subCol (rotCol (scheduleWord (expand k nb nr) (t - 1)))) ⟨rc (t / (4 * nb)), 0, 0, 0⟩
        else if 4 * nb = 8 ∧ t % (4 * nb) = 4 then subCol (scheduleWord (expand k nb nr) (t - 1))
        else scheduleWord (expand k nb nr) (t - 1))

/-- R213: the inverse cipher undoes the cipher and the reverse, for every state and every schedule. -/
def Obligations.CiphersAreInverse : Prop :=
  ∀ (S : ByteMatrix) (rk : List ByteMatrix) (nr : Nat),
    invCipher (cipher S rk nr) rk nr = S ∧ cipher (invCipher S rk nr) rk nr = S

/-- 43_round_engine.md R210 against 41_state_transforms.md section 3 (derived): ENCRYPT in ECB computes what the single-transform
commands compute, run in the order of the forward cipher with DOUT copied to DIN after each. -/
def Obligations.TransformCommandsComputeEncrypt : Prop :=
  ∀ s t : State, s.status.keyValid = true → s.nr = 10#4 ∨ s.nr = 14#4 → s.ctrl.mode = .ecb →
    exec .encrypt s = .next t →
    ∃ u, runCopying (roundCommands s.nr.toNat) s = some u ∧ u.dout = t.dout ∧ u.cv = s.cv ∧ u.rk = s.rk

/-! ### Padding and streams -/

/-- R230, R234: `pad` appends between 1 and 16 bytes, each holding their count, up to a multiple of 16; and the last block of
`pad(P)` is `padBlock` of any block that starts with the last `len(P) mod 16` bytes of `P`. -/
def Obligations.PaddingRule : Prop :=
  (∀ P : List Byte, ∃ n, 1 ≤ n ∧ n ≤ 16 ∧ n = 16 - P.length % 16 ∧
    pad P = P ++ List.replicate n (BitVec.ofNat 8 n) ∧ (pad P).length % 16 = 0) ∧
  (∀ (b : Block) (L : Nat) (p : Fin 16), L ≤ 15 →
    (padBlock b L)[p] = if p.val < L then b[p] else BitVec.ofNat 8 (16 - L)) ∧
  ∀ (P : List Byte) (b : Block),
    (∀ p : Fin 16, p.val < P.length % 16 → P[P.length - P.length % 16 + p.val]? = some b[p]) →
    (blocksOf (pad P)).getLast? = some (padBlock b (P.length % 16))

/-- R245: decrypting an encrypted stream gives the padded plaintext, in both modes, for every key of 16 or 32 bytes. -/
def Obligations.StreamRoundTrip : Prop :=
  ∀ (m : Mode) (K P : List Byte), K.length = 16 ∨ K.length = 32 →
    ∃ C, encryptStream m K P = some C ∧ C.length = 16 * (P.length / 16 + 1) ∧ decryptStream m K C = some (pad P)

/-- R247: in ECB, plaintexts that share their leading `j` blocks give ciphertexts that share their leading `j` blocks. -/
def Obligations.EcbBlockIndependence : Prop :=
  ∀ (K P P' C C' : List Byte) (j : Nat), 16 * j ≤ P.length → 16 * j ≤ P'.length →
    P.take (16 * j) = P'.take (16 * j) → encryptStream .ecb K P = some C → encryptStream .ecb K P' = some C' →
    C.take (16 * j) = C'.take (16 * j)

/-- R248: in CBC, changing ciphertext block `i` changes decrypted block `i`, changes block `i+1` by exactly the same bits, and
leaves every other block unchanged. -/
def Obligations.CbcChainingSensitivity : Prop :=
  ∀ (K C C' p p' : List Byte) (i : Nat), C.length = C'.length → 16 * (i + 1) ≤ C.length →
    (∀ j, j / 16 ≠ i → C[j]? = C'[j]?) → blockAt C i ≠ blockAt C' i →
    decryptStream .cbc K C = some p → decryptStream .cbc K C' = some p' →
    blockAt p i ≠ blockAt p' i ∧
    (∀ j, j / 16 ≠ i → j / 16 ≠ i + 1 → p[j]? = p'[j]?) ∧
    (16 * (i + 2) ≤ C.length → ∀ q : Fin 16,
      (blockAt p (i + 1))[q] ^^^ (blockAt p' (i + 1))[q] = (blockAt C i)[q] ^^^ (blockAt C' i)[q])

/-- R243, R244, R246: the driver protocol, run from any idle state without error, with any number of polls before each
completion and any filler in the last block, appends exactly the stream functions' result to what the host had read from DOUT
before and raises no error, and so does a second stream under the expanded key that starts with CHAIN_RESET in place of the prologue; a truncated
ciphertext is refused before any command; a key of another length is E_KEYSIZE, on which the driver aborts before any block;
and so it aborts whenever it reads ERR = 1 after the prologue. -/
def Obligations.DriverComputesTheStream : Prop :=
  (∀ (m : Mode) (K : List Byte) (s : State), K.length = 16 ∨ K.length = 32 →
    s.rst = false → s.status.busy = false → s.status.err = false →
    (∀ (lat : Nat → Nat) (fill : Block) (P : List Byte) (d : DriverEnd),
      d = encryptDriver lat fill m K P s ∨
        (d = nextEncryptDriver lat fill P s ∧ s.ctrl.mode = m ∧ s.status.keyValid = true ∧ expandedKey K s) →
      ∃ t c, d = .finished t ∧ t.schedule = [] ∧ t.status.err = false ∧
        encryptStream m K P = some c ∧ hostOutput t.bus = hostOutput s.bus ++ c) ∧
    ∀ (lat : Nat → Nat) (C : List Byte) (d : DriverEnd), C.length % 16 = 0 →
      d = decryptDriver lat m K C s ∨
        (d = nextDecryptDriver lat C s ∧ s.ctrl.mode = m ∧ s.status.keyValid = true ∧ expandedKey K s) →
      ∃ t p, d = .finished t ∧ t.schedule = [] ∧ t.status.err = false ∧
        decryptStream m K C = some p ∧ hostOutput t.bus = hostOutput s.bus ++ p) ∧
  (∀ (lat : Nat → Nat) (m : Mode) (K C : List Byte) (s : State), C.length % 16 ≠ 0 →
    decryptStream m K C = none ∧ decryptDriver lat m K C s = .refused ∧ nextDecryptDriver lat C s = .refused) ∧
  (∀ (m : Mode) (K P C : List Byte), K.length ≠ 16 → K.length ≠ 32 →
    encryptStream m K P = none ∧ decryptStream m K C = none) ∧
  ∀ (lat : Nat → Nat) (fill : Block) (m : Mode) (K P C : List Byte) (s : State),
    s.rst = false → s.status.busy = false → (K.length ≠ 16 ∧ K.length ≠ 32) ∨ s.status.err = true →
    ∃ t, encryptDriver lat fill m K P s = .aborted t ∧ (C.length % 16 = 0 → decryptDriver lat m K C s = .aborted t) ∧
      t.dout = s.dout ∧ hostOutput t.bus = hostOutput s.bus ∧ t.status.err = true ∧
      (K.length ≠ 16 → K.length ≠ 32 → t.status.errcode = 2 ∧ t.status.keyValid = false)
end

