-- ==== Sys2Proof/Laws/ByteMatrix.lean ====
section
/-! SUPPORT. Matrices, blocks and register words: entries of a matrix built by `matrixOf`, bytes of packed words, and the
two ways between four register words and a block. -/

namespace Sys2Proof.Machine

/-! Matrices -/

@[simp] theorem entry_matrixOf (f : Fin 4 → Fin 4 → Byte) (r c : Fin 4) : entry (matrixOf f) r c = f r c := by
  fin_cases r <;> fin_cases c <;> rfl

/-- Two matrices with the same entries are equal. -/
theorem matrix_eq_of_entries {S T : ByteMatrix} (h : ∀ r c, entry S r c = entry T r c) : S = T := by
  obtain ⟨⟨a, b, c, d⟩, ⟨e, f, g, i⟩, ⟨j, k, l, m⟩, ⟨n, o, p, q⟩⟩ := S
  obtain ⟨⟨a', b', c', d'⟩, ⟨e', f', g', i'⟩, ⟨j', k', l', m'⟩, ⟨n', o', p', q'⟩⟩ := T
  have := h 0 0; have := h 1 0; have := h 2 0; have := h 3 0
  have := h 0 1; have := h 1 1; have := h 2 1; have := h 3 1
  have := h 0 2; have := h 1 2; have := h 2 2; have := h 3 2
  have := h 0 3; have := h 1 3; have := h 2 3; have := h 3 3
  simp_all [entry, column, colByte]

/-- A matrix is built from its own entries. -/
theorem matrixOf_entry (S : ByteMatrix) : (matrixOf fun r c => entry S r c) = S := rfl

@[simp] theorem entry_load (b : Block) (r c : Fin 4) : entry (load b) r c = b[4 * c.val + r.val] := by
  simp [load]

@[simp] theorem getElem_serialize (S : ByteMatrix) (p : Nat) (h : p < 16) :
    (serialize S)[p] = entry S (Fin.ofNat 4 (p % 4)) (Fin.ofNat 4 (p / 4)) := by
  simp [serialize]

@[simp] theorem entry_combine (S T : ByteMatrix) (r c : Fin 4) :
    entry (combine S T) r c = entry S r c ^^^ entry T r c := by
  simp [combine]

@[simp] theorem entry_zeroMatrix (r c : Fin 4) : entry zeroMatrix r c = 0 := by
  fin_cases r <;> fin_cases c <;> rfl

/-- `combine(S, Z) = S` (40_byte_matrix.md R123). -/
@[simp] theorem combine_zeroMatrix (S : ByteMatrix) : combine S zeroMatrix = S :=
  matrix_eq_of_entries fun r c => by simp

/-- Combining twice with the same matrix gives the first one back (40_byte_matrix.md R123). -/
theorem combine_combine (S T : ByteMatrix) : combine (combine S T) T = S :=
  matrix_eq_of_entries fun r c => by simp

@[simp] theorem entry_substitute (S : ByteMatrix) (r c : Fin 4) : entry (substitute S) r c = sbox (entry S r c) := by
  simp [substitute]

@[simp] theorem entry_inverseSubstitute (S : ByteMatrix) (r c : Fin 4) :
    entry (inverseSubstitute S) r c = invSbox (entry S r c) := by
  simp [inverseSubstitute]

@[simp] theorem entry_shiftRows (S : ByteMatrix) (r c : Fin 4) : entry (shiftRows S) r c = entry S r (c + r) := by
  simp [shiftRows]

@[simp] theorem entry_inverseShiftRows (S : ByteMatrix) (r c : Fin 4) :
    entry (inverseShiftRows S) r c = entry S r (c - r) := by
  simp [inverseShiftRows]

/-! Register words -/

/-- The bytes of a packed word are the bytes packed (20_memory.md R60). -/
theorem wordByte_packWord (b0 b1 b2 b3 : Byte) :
    wordByte (packWord b0 b1 b2 b3) 0 = b0 ∧ wordByte (packWord b0 b1 b2 b3) 1 = b1 ∧
    wordByte (packWord b0 b1 b2 b3) 2 = b2 ∧ wordByte (packWord b0 b1 b2 b3) 3 = b3 := by
  refine ⟨?_, ?_, ?_, ?_⟩ <;> (ext i hi; interval_cases i <;> simp [wordByte, packWord])

/-- Packing the bytes of a word gives the word back. -/
theorem packWord_wordByte (w : Word) :
    packWord (wordByte w 0) (wordByte w 1) (wordByte w 2) (wordByte w 3) = w := by
  ext i hi
  interval_cases i <;> simp [wordByte, packWord]

@[simp] theorem getElem_blockOfWords (v : Vector Word 4) (p : Nat) (h : p < 16) :
    (blockOfWords v)[p] = wordByte (v[p / 4]'(by omega)) (p % 4) := by
  simp [blockOfWords]

@[simp] theorem getElem_wordsOfBlock (o : Block) (w : Nat) (h : w < 4) :
    (wordsOfBlock o)[w] = packWord o[4 * w] o[4 * w + 1] o[4 * w + 2] o[4 * w + 3] := by
  simp [wordsOfBlock]

/-- Byte `i` of register `w` of a block is its byte `4w + i` (20_memory.md R60). -/
theorem wordByte_wordsOfBlock (o : Block) (w i : Fin 4) :
    wordByte (wordsOfBlock o)[w] i.val = o[4 * w.val + i.val] := by
  obtain ⟨h0, h1, h2, h3⟩ := wordByte_packWord o[4 * w.val] o[4 * w.val + 1] o[4 * w.val + 2] o[4 * w.val + 3]
  fin_cases i <;> simp_all

/-- The block of the four register words of a block is that block. -/
@[simp] theorem blockOfWords_wordsOfBlock (o : Block) : blockOfWords (wordsOfBlock o) = o := by
  ext1 p hp
  have := wordByte_wordsOfBlock o ⟨p / 4, by omega⟩ ⟨p % 4, by omega⟩
  simp only [getElem_blockOfWords]
  simpa [Nat.div_add_mod] using this

/-- The register words of the block of four register words are those words. -/
@[simp] theorem wordsOfBlock_blockOfWords (v : Vector Word 4) : wordsOfBlock (blockOfWords v) = v := by
  ext1 w hw
  have h : ∀ k, k < 4 → (4 * w + k) / 4 = w ∧ (4 * w + k) % 4 = k := by omega
  have h1 := h 1 (by omega); have h2 := h 2 (by omega); have h3 := h 3 (by omega)
  simp [h1, h2, h3, packWord_wordByte]

/-- Two sets of four register words that hold the same block are equal. -/
theorem words_eq_of_blocks {v w : Vector Word 4} (h : blockOfWords v = blockOfWords w) : v = w := by
  rw [← wordsOfBlock_blockOfWords v, h, wordsOfBlock_blockOfWords]

end Sys2Proof.Machine
end

