-- ==== Sys2Proof/Laws/State.lean ====
section
/-! SUPPORT. One lemma per field per named update of the state, true by definition, so that no proof unfolds a record
update; and the fields of STATUS after each way of writing it. -/

namespace Sys2Proof.Machine

/-! `setDout` -/

@[simp] theorem setDout_ctrl (o : Block) (s : State) : (setDout o s).ctrl = s.ctrl := rfl

@[simp] theorem setDout_status (o : Block) (s : State) : (setDout o s).status = s.status := rfl

@[simp] theorem setDout_key (o : Block) (s : State) : (setDout o s).key = s.key := rfl

@[simp] theorem setDout_din (o : Block) (s : State) : (setDout o s).din = s.din := rfl

@[simp] theorem setDout_dout (o : Block) (s : State) : (setDout o s).dout = wordsOfBlock o := rfl

@[simp] theorem setDout_rk (o : Block) (s : State) : (setDout o s).rk = s.rk := rfl

@[simp] theorem setDout_nr (o : Block) (s : State) : (setDout o s).nr = s.nr := rfl

@[simp] theorem setDout_cv (o : Block) (s : State) : (setDout o s).cv = s.cv := rfl

@[simp] theorem setDout_pend (o : Block) (s : State) : (setDout o s).pend = s.pend := rfl

@[simp] theorem setDout_rst (o : Block) (s : State) : (setDout o s).rst = s.rst := rfl

@[simp] theorem setDout_schedule (o : Block) (s : State) : (setDout o s).schedule = s.schedule := rfl

@[simp] theorem setDout_bus (o : Block) (s : State) : (setDout o s).bus = s.bus := rfl

@[simp] theorem setDout_draws (o : Block) (s : State) : (setDout o s).draws = s.draws := rfl

/-! `setCv` -/

@[simp] theorem setCv_ctrl (M : ByteMatrix) (s : State) : (setCv M s).ctrl = s.ctrl := rfl

@[simp] theorem setCv_status (M : ByteMatrix) (s : State) : (setCv M s).status = s.status := rfl

@[simp] theorem setCv_key (M : ByteMatrix) (s : State) : (setCv M s).key = s.key := rfl

@[simp] theorem setCv_din (M : ByteMatrix) (s : State) : (setCv M s).din = s.din := rfl

@[simp] theorem setCv_dout (M : ByteMatrix) (s : State) : (setCv M s).dout = s.dout := rfl

@[simp] theorem setCv_rk (M : ByteMatrix) (s : State) : (setCv M s).rk = s.rk := rfl

@[simp] theorem setCv_nr (M : ByteMatrix) (s : State) : (setCv M s).nr = s.nr := rfl

@[simp] theorem setCv_cv (M : ByteMatrix) (s : State) : (setCv M s).cv = M := rfl

@[simp] theorem setCv_pend (M : ByteMatrix) (s : State) : (setCv M s).pend = s.pend := rfl

@[simp] theorem setCv_rst (M : ByteMatrix) (s : State) : (setCv M s).rst = s.rst := rfl

@[simp] theorem setCv_schedule (M : ByteMatrix) (s : State) : (setCv M s).schedule = s.schedule := rfl

@[simp] theorem setCv_bus (M : ByteMatrix) (s : State) : (setCv M s).bus = s.bus := rfl

@[simp] theorem setCv_draws (M : ByteMatrix) (s : State) : (setCv M s).draws = s.draws := rfl

/-! `storeSchedule` -/

@[simp] theorem storeSchedule_ctrl (rks : List ByteMatrix) (nr : Nat) (s : State) : (storeSchedule rks nr s).ctrl = s.ctrl := rfl

@[simp] theorem storeSchedule_status (rks : List ByteMatrix) (nr : Nat) (s : State) : (storeSchedule rks nr s).status = s.status := rfl

@[simp] theorem storeSchedule_key (rks : List ByteMatrix) (nr : Nat) (s : State) : (storeSchedule rks nr s).key = s.key := rfl

@[simp] theorem storeSchedule_din (rks : List ByteMatrix) (nr : Nat) (s : State) : (storeSchedule rks nr s).din = s.din := rfl

@[simp] theorem storeSchedule_dout (rks : List ByteMatrix) (nr : Nat) (s : State) : (storeSchedule rks nr s).dout = s.dout := rfl

@[simp] theorem storeSchedule_nr (rks : List ByteMatrix) (nr : Nat) (s : State) : (storeSchedule rks nr s).nr = BitVec.ofNat 4 nr := rfl

@[simp] theorem storeSchedule_cv (rks : List ByteMatrix) (nr : Nat) (s : State) : (storeSchedule rks nr s).cv = s.cv := rfl

@[simp] theorem storeSchedule_pend (rks : List ByteMatrix) (nr : Nat) (s : State) : (storeSchedule rks nr s).pend = s.pend := rfl

@[simp] theorem storeSchedule_rst (rks : List ByteMatrix) (nr : Nat) (s : State) : (storeSchedule rks nr s).rst = s.rst := rfl

@[simp] theorem storeSchedule_schedule (rks : List ByteMatrix) (nr : Nat) (s : State) : (storeSchedule rks nr s).schedule = s.schedule := rfl

@[simp] theorem storeSchedule_bus (rks : List ByteMatrix) (nr : Nat) (s : State) : (storeSchedule rks nr s).bus = s.bus := rfl

@[simp] theorem storeSchedule_draws (rks : List ByteMatrix) (nr : Nat) (s : State) : (storeSchedule rks nr s).draws = s.draws + 15 := rfl

/-! `markKeyValid` -/

@[simp] theorem markKeyValid_ctrl (s : State) : (markKeyValid s).ctrl = s.ctrl := rfl

@[simp] theorem markKeyValid_status (s : State) : (markKeyValid s).status = statusKeyExpanded s.status := rfl

@[simp] theorem markKeyValid_key (s : State) : (markKeyValid s).key = s.key := rfl

@[simp] theorem markKeyValid_din (s : State) : (markKeyValid s).din = s.din := rfl

@[simp] theorem markKeyValid_dout (s : State) : (markKeyValid s).dout = s.dout := rfl

@[simp] theorem markKeyValid_rk (s : State) : (markKeyValid s).rk = s.rk := rfl

@[simp] theorem markKeyValid_nr (s : State) : (markKeyValid s).nr = s.nr := rfl

@[simp] theorem markKeyValid_cv (s : State) : (markKeyValid s).cv = s.cv := rfl

@[simp] theorem markKeyValid_pend (s : State) : (markKeyValid s).pend = s.pend := rfl

@[simp] theorem markKeyValid_rst (s : State) : (markKeyValid s).rst = s.rst := rfl

@[simp] theorem markKeyValid_schedule (s : State) : (markKeyValid s).schedule = s.schedule := rfl

@[simp] theorem markKeyValid_bus (s : State) : (markKeyValid s).bus = s.bus := rfl

@[simp] theorem markKeyValid_draws (s : State) : (markKeyValid s).draws = s.draws := rfl

/-! `complete` -/

@[simp] theorem complete_ctrl (s : State) : (complete s).ctrl = s.ctrl := rfl

@[simp] theorem complete_status (s : State) : (complete s).status = statusCompleted s.status := rfl

@[simp] theorem complete_key (s : State) : (complete s).key = s.key := rfl

@[simp] theorem complete_din (s : State) : (complete s).din = s.din := rfl

@[simp] theorem complete_dout (s : State) : (complete s).dout = s.dout := rfl

@[simp] theorem complete_rk (s : State) : (complete s).rk = s.rk := rfl

@[simp] theorem complete_nr (s : State) : (complete s).nr = s.nr := rfl

@[simp] theorem complete_cv (s : State) : (complete s).cv = s.cv := rfl

@[simp] theorem complete_pend (s : State) : (complete s).pend = s.pend := rfl

@[simp] theorem complete_rst (s : State) : (complete s).rst = s.rst := rfl

@[simp] theorem complete_schedule (s : State) : (complete s).schedule = s.schedule := rfl

@[simp] theorem complete_bus (s : State) : (complete s).bus = s.bus := rfl

@[simp] theorem complete_draws (s : State) : (complete s).draws = s.draws := rfl

/-! `raise` -/

@[simp] theorem raise_ctrl (e : EngineError) (s : State) : (raise e s).ctrl = s.ctrl := rfl

@[simp] theorem raise_status (e : EngineError) (s : State) : (raise e s).status = statusRaised e s.status := rfl

@[simp] theorem raise_key (e : EngineError) (s : State) : (raise e s).key = s.key := rfl

@[simp] theorem raise_din (e : EngineError) (s : State) : (raise e s).din = s.din := rfl

@[simp] theorem raise_dout (e : EngineError) (s : State) : (raise e s).dout = s.dout := rfl

@[simp] theorem raise_rk (e : EngineError) (s : State) : (raise e s).rk = s.rk := rfl

@[simp] theorem raise_nr (e : EngineError) (s : State) : (raise e s).nr = s.nr := rfl

@[simp] theorem raise_cv (e : EngineError) (s : State) : (raise e s).cv = s.cv := rfl

@[simp] theorem raise_pend (e : EngineError) (s : State) : (raise e s).pend = s.pend := rfl

@[simp] theorem raise_rst (e : EngineError) (s : State) : (raise e s).rst = s.rst := rfl

@[simp] theorem raise_schedule (e : EngineError) (s : State) : (raise e s).schedule = s.schedule := rfl

@[simp] theorem raise_bus (e : EngineError) (s : State) : (raise e s).bus = s.bus := rfl

@[simp] theorem raise_draws (e : EngineError) (s : State) : (raise e s).draws = s.draws := rfl

/-! `writeStatus` -/

@[simp] theorem writeStatus_ctrl (v : Word) (s : State) : (writeStatus v s).ctrl = s.ctrl := rfl

@[simp] theorem writeStatus_status (v : Word) (s : State) : (writeStatus v s).status = statusWriteClear v s.status := rfl

@[simp] theorem writeStatus_key (v : Word) (s : State) : (writeStatus v s).key = s.key := rfl

@[simp] theorem writeStatus_din (v : Word) (s : State) : (writeStatus v s).din = s.din := rfl

@[simp] theorem writeStatus_dout (v : Word) (s : State) : (writeStatus v s).dout = s.dout := rfl

@[simp] theorem writeStatus_rk (v : Word) (s : State) : (writeStatus v s).rk = s.rk := rfl

@[simp] theorem writeStatus_nr (v : Word) (s : State) : (writeStatus v s).nr = s.nr := rfl

@[simp] theorem writeStatus_cv (v : Word) (s : State) : (writeStatus v s).cv = s.cv := rfl

@[simp] theorem writeStatus_pend (v : Word) (s : State) : (writeStatus v s).pend = s.pend := rfl

@[simp] theorem writeStatus_rst (v : Word) (s : State) : (writeStatus v s).rst = s.rst := rfl

@[simp] theorem writeStatus_schedule (v : Word) (s : State) : (writeStatus v s).schedule = s.schedule := rfl

@[simp] theorem writeStatus_bus (v : Word) (s : State) : (writeStatus v s).bus = s.bus := rfl

@[simp] theorem writeStatus_draws (v : Word) (s : State) : (writeStatus v s).draws = s.draws := rfl

/-! `dropWrite` -/

@[simp] theorem dropWrite_ctrl (s : State) : (dropWrite s).ctrl = s.ctrl := rfl

@[simp] theorem dropWrite_status (s : State) : (dropWrite s).status = statusBusyError s.status := rfl

@[simp] theorem dropWrite_key (s : State) : (dropWrite s).key = s.key := rfl

@[simp] theorem dropWrite_din (s : State) : (dropWrite s).din = s.din := rfl

@[simp] theorem dropWrite_dout (s : State) : (dropWrite s).dout = s.dout := rfl

@[simp] theorem dropWrite_rk (s : State) : (dropWrite s).rk = s.rk := rfl

@[simp] theorem dropWrite_nr (s : State) : (dropWrite s).nr = s.nr := rfl

@[simp] theorem dropWrite_cv (s : State) : (dropWrite s).cv = s.cv := rfl

@[simp] theorem dropWrite_pend (s : State) : (dropWrite s).pend = s.pend := rfl

@[simp] theorem dropWrite_rst (s : State) : (dropWrite s).rst = s.rst := rfl

@[simp] theorem dropWrite_schedule (s : State) : (dropWrite s).schedule = s.schedule := rfl

@[simp] theorem dropWrite_bus (s : State) : (dropWrite s).bus = s.bus := rfl

@[simp] theorem dropWrite_draws (s : State) : (dropWrite s).draws = s.draws := rfl

/-! `acceptCmd` -/

@[simp] theorem acceptCmd_ctrl (v : Word) (s : State) : (acceptCmd v s).ctrl = s.ctrl := rfl

@[simp] theorem acceptCmd_status (v : Word) (s : State) : (acceptCmd v s).status = statusAccepted s.status := rfl

@[simp] theorem acceptCmd_key (v : Word) (s : State) : (acceptCmd v s).key = s.key := rfl

@[simp] theorem acceptCmd_din (v : Word) (s : State) : (acceptCmd v s).din = s.din := rfl

@[simp] theorem acceptCmd_dout (v : Word) (s : State) : (acceptCmd v s).dout = s.dout := rfl

@[simp] theorem acceptCmd_rk (v : Word) (s : State) : (acceptCmd v s).rk = s.rk := rfl

@[simp] theorem acceptCmd_nr (v : Word) (s : State) : (acceptCmd v s).nr = s.nr := rfl

@[simp] theorem acceptCmd_cv (v : Word) (s : State) : (acceptCmd v s).cv = s.cv := rfl

@[simp] theorem acceptCmd_pend (v : Word) (s : State) : (acceptCmd v s).pend = v := rfl

@[simp] theorem acceptCmd_rst (v : Word) (s : State) : (acceptCmd v s).rst = s.rst := rfl

@[simp] theorem acceptCmd_schedule (v : Word) (s : State) : (acceptCmd v s).schedule = s.schedule := rfl

@[simp] theorem acceptCmd_bus (v : Word) (s : State) : (acceptCmd v s).bus = s.bus := rfl

@[simp] theorem acceptCmd_draws (v : Word) (s : State) : (acceptCmd v s).draws = s.draws := rfl

/-! `storeCtrl` -/

@[simp] theorem storeCtrl_ctrl (v : Word) (s : State) : (storeCtrl v s).ctrl = ctrlOfWord v := rfl

@[simp] theorem storeCtrl_status (v : Word) (s : State) : (storeCtrl v s).status = s.status := rfl

@[simp] theorem storeCtrl_key (v : Word) (s : State) : (storeCtrl v s).key = s.key := rfl

@[simp] theorem storeCtrl_din (v : Word) (s : State) : (storeCtrl v s).din = s.din := rfl

@[simp] theorem storeCtrl_dout (v : Word) (s : State) : (storeCtrl v s).dout = s.dout := rfl

@[simp] theorem storeCtrl_rk (v : Word) (s : State) : (storeCtrl v s).rk = s.rk := rfl

@[simp] theorem storeCtrl_nr (v : Word) (s : State) : (storeCtrl v s).nr = s.nr := rfl

@[simp] theorem storeCtrl_cv (v : Word) (s : State) : (storeCtrl v s).cv = s.cv := rfl

@[simp] theorem storeCtrl_pend (v : Word) (s : State) : (storeCtrl v s).pend = s.pend := rfl

@[simp] theorem storeCtrl_rst (v : Word) (s : State) : (storeCtrl v s).rst = s.rst := rfl

@[simp] theorem storeCtrl_schedule (v : Word) (s : State) : (storeCtrl v s).schedule = s.schedule := rfl

@[simp] theorem storeCtrl_bus (v : Word) (s : State) : (storeCtrl v s).bus = s.bus := rfl

@[simp] theorem storeCtrl_draws (v : Word) (s : State) : (storeCtrl v s).draws = s.draws := rfl

/-! `storeKey` -/

@[simp] theorem storeKey_ctrl (w : Fin 8) (v : Word) (s : State) : (storeKey w v s).ctrl = s.ctrl := rfl

@[simp] theorem storeKey_status (w : Fin 8) (v : Word) (s : State) : (storeKey w v s).status = statusKeyWritten s.status := rfl

@[simp] theorem storeKey_key (w : Fin 8) (v : Word) (s : State) : (storeKey w v s).key = s.key.set w v := rfl

@[simp] theorem storeKey_din (w : Fin 8) (v : Word) (s : State) : (storeKey w v s).din = s.din := rfl

@[simp] theorem storeKey_dout (w : Fin 8) (v : Word) (s : State) : (storeKey w v s).dout = s.dout := rfl

@[simp] theorem storeKey_rk (w : Fin 8) (v : Word) (s : State) : (storeKey w v s).rk = s.rk := rfl

@[simp] theorem storeKey_nr (w : Fin 8) (v : Word) (s : State) : (storeKey w v s).nr = s.nr := rfl

@[simp] theorem storeKey_cv (w : Fin 8) (v : Word) (s : State) : (storeKey w v s).cv = s.cv := rfl

@[simp] theorem storeKey_pend (w : Fin 8) (v : Word) (s : State) : (storeKey w v s).pend = s.pend := rfl

@[simp] theorem storeKey_rst (w : Fin 8) (v : Word) (s : State) : (storeKey w v s).rst = s.rst := rfl

@[simp] theorem storeKey_schedule (w : Fin 8) (v : Word) (s : State) : (storeKey w v s).schedule = s.schedule := rfl

@[simp] theorem storeKey_bus (w : Fin 8) (v : Word) (s : State) : (storeKey w v s).bus = s.bus := rfl

@[simp] theorem storeKey_draws (w : Fin 8) (v : Word) (s : State) : (storeKey w v s).draws = s.draws := rfl

/-! `storeDin` -/

@[simp] theorem storeDin_ctrl (w : Fin 4) (v : Word) (s : State) : (storeDin w v s).ctrl = s.ctrl := rfl

@[simp] theorem storeDin_status (w : Fin 4) (v : Word) (s : State) : (storeDin w v s).status = s.status := rfl

@[simp] theorem storeDin_key (w : Fin 4) (v : Word) (s : State) : (storeDin w v s).key = s.key := rfl

@[simp] theorem storeDin_din (w : Fin 4) (v : Word) (s : State) : (storeDin w v s).din = s.din.set w v := rfl

@[simp] theorem storeDin_dout (w : Fin 4) (v : Word) (s : State) : (storeDin w v s).dout = s.dout := rfl

@[simp] theorem storeDin_rk (w : Fin 4) (v : Word) (s : State) : (storeDin w v s).rk = s.rk := rfl

@[simp] theorem storeDin_nr (w : Fin 4) (v : Word) (s : State) : (storeDin w v s).nr = s.nr := rfl

@[simp] theorem storeDin_cv (w : Fin 4) (v : Word) (s : State) : (storeDin w v s).cv = s.cv := rfl

@[simp] theorem storeDin_pend (w : Fin 4) (v : Word) (s : State) : (storeDin w v s).pend = s.pend := rfl

@[simp] theorem storeDin_rst (w : Fin 4) (v : Word) (s : State) : (storeDin w v s).rst = s.rst := rfl

@[simp] theorem storeDin_schedule (w : Fin 4) (v : Word) (s : State) : (storeDin w v s).schedule = s.schedule := rfl

@[simp] theorem storeDin_bus (w : Fin 4) (v : Word) (s : State) : (storeDin w v s).bus = s.bus := rfl

@[simp] theorem storeDin_draws (w : Fin 4) (v : Word) (s : State) : (storeDin w v s).draws = s.draws := rfl

/-! `drawOne` -/

@[simp] theorem drawOne_ctrl (s : State) : (drawOne s).ctrl = s.ctrl := rfl

@[simp] theorem drawOne_status (s : State) : (drawOne s).status = s.status := rfl

@[simp] theorem drawOne_key (s : State) : (drawOne s).key = s.key := rfl

@[simp] theorem drawOne_din (s : State) : (drawOne s).din = s.din := rfl

@[simp] theorem drawOne_dout (s : State) : (drawOne s).dout = s.dout := rfl

@[simp] theorem drawOne_rk (s : State) : (drawOne s).rk = s.rk := rfl

@[simp] theorem drawOne_nr (s : State) : (drawOne s).nr = s.nr := rfl

@[simp] theorem drawOne_cv (s : State) : (drawOne s).cv = s.cv := rfl

@[simp] theorem drawOne_pend (s : State) : (drawOne s).pend = s.pend := rfl

@[simp] theorem drawOne_rst (s : State) : (drawOne s).rst = s.rst := rfl

@[simp] theorem drawOne_schedule (s : State) : (drawOne s).schedule = s.schedule := rfl

@[simp] theorem drawOne_bus (s : State) : (drawOne s).bus = s.bus := rfl

@[simp] theorem drawOne_draws (s : State) : (drawOne s).draws = s.draws + 1 := rfl

/-! `releaseReset` -/

@[simp] theorem releaseReset_ctrl (s : State) : (releaseReset s).ctrl = s.ctrl := rfl

@[simp] theorem releaseReset_status (s : State) : (releaseReset s).status = s.status := rfl

@[simp] theorem releaseReset_key (s : State) : (releaseReset s).key = s.key := rfl

@[simp] theorem releaseReset_din (s : State) : (releaseReset s).din = s.din := rfl

@[simp] theorem releaseReset_dout (s : State) : (releaseReset s).dout = s.dout := rfl

@[simp] theorem releaseReset_rk (s : State) : (releaseReset s).rk = s.rk := rfl

@[simp] theorem releaseReset_nr (s : State) : (releaseReset s).nr = s.nr := rfl

@[simp] theorem releaseReset_cv (s : State) : (releaseReset s).cv = s.cv := rfl

@[simp] theorem releaseReset_pend (s : State) : (releaseReset s).pend = s.pend := rfl

@[simp] theorem releaseReset_rst (s : State) : (releaseReset s).rst = false := rfl

@[simp] theorem releaseReset_schedule (s : State) : (releaseReset s).schedule = s.schedule := rfl

@[simp] theorem releaseReset_bus (s : State) : (releaseReset s).bus = s.bus := rfl

@[simp] theorem releaseReset_draws (s : State) : (releaseReset s).draws = s.draws := rfl

/-! `logTransaction` -/

@[simp] theorem logTransaction_ctrl (a : Access) (ans : Answer) (s : State) : (logTransaction a ans s).ctrl = s.ctrl := rfl

@[simp] theorem logTransaction_status (a : Access) (ans : Answer) (s : State) : (logTransaction a ans s).status = s.status := rfl

@[simp] theorem logTransaction_key (a : Access) (ans : Answer) (s : State) : (logTransaction a ans s).key = s.key := rfl

@[simp] theorem logTransaction_din (a : Access) (ans : Answer) (s : State) : (logTransaction a ans s).din = s.din := rfl

@[simp] theorem logTransaction_dout (a : Access) (ans : Answer) (s : State) : (logTransaction a ans s).dout = s.dout := rfl

@[simp] theorem logTransaction_rk (a : Access) (ans : Answer) (s : State) : (logTransaction a ans s).rk = s.rk := rfl

@[simp] theorem logTransaction_nr (a : Access) (ans : Answer) (s : State) : (logTransaction a ans s).nr = s.nr := rfl

@[simp] theorem logTransaction_cv (a : Access) (ans : Answer) (s : State) : (logTransaction a ans s).cv = s.cv := rfl

@[simp] theorem logTransaction_pend (a : Access) (ans : Answer) (s : State) : (logTransaction a ans s).pend = s.pend := rfl

@[simp] theorem logTransaction_rst (a : Access) (ans : Answer) (s : State) : (logTransaction a ans s).rst = s.rst := rfl

@[simp] theorem logTransaction_schedule (a : Access) (ans : Answer) (s : State) : (logTransaction a ans s).schedule = s.schedule := rfl

@[simp] theorem logTransaction_bus (a : Access) (ans : Answer) (s : State) : (logTransaction a ans s).bus = ⟨a, ans⟩ :: s.bus := rfl

@[simp] theorem logTransaction_draws (a : Access) (ans : Answer) (s : State) : (logTransaction a ans s).draws = s.draws := rfl

/-! `assertReset` -/

@[simp] theorem assertReset_ctrl (s : State) : (assertReset s).ctrl = Ctrl.reset := rfl

@[simp] theorem assertReset_status (s : State) : (assertReset s).status = Status.reset := rfl

@[simp] theorem assertReset_key (s : State) : (assertReset s).key = Vector.replicate 8 0 := rfl

@[simp] theorem assertReset_din (s : State) : (assertReset s).din = Vector.replicate 4 0 := rfl

@[simp] theorem assertReset_dout (s : State) : (assertReset s).dout = Vector.replicate 4 0 := rfl

@[simp] theorem assertReset_nr (s : State) : (assertReset s).nr = Config.freeNr s.draws := rfl

@[simp] theorem assertReset_cv (s : State) : (assertReset s).cv = zeroMatrix := rfl

@[simp] theorem assertReset_pend (s : State) : (assertReset s).pend = 0 := rfl

@[simp] theorem assertReset_rst (s : State) : (assertReset s).rst = true := rfl

@[simp] theorem assertReset_schedule (s : State) : (assertReset s).schedule = s.schedule := rfl

@[simp] theorem assertReset_bus (s : State) : (assertReset s).bus = s.bus := rfl

@[simp] theorem assertReset_draws (s : State) : (assertReset s).draws = s.draws + 15 := rfl

/-! The ways of writing STATUS -/

@[simp] theorem statusAccepted_busy (st : Status) : (statusAccepted st).busy = true := rfl

@[simp] theorem statusAccepted_done (st : Status) : (statusAccepted st).done = false := rfl

@[simp] theorem statusAccepted_err (st : Status) : (statusAccepted st).err = st.err := rfl

@[simp] theorem statusAccepted_keyValid (st : Status) : (statusAccepted st).keyValid = st.keyValid := rfl

@[simp] theorem statusAccepted_errcode (st : Status) : (statusAccepted st).errcode = st.errcode := rfl

@[simp] theorem statusCompleted_busy (st : Status) : (statusCompleted st).busy = false := rfl

@[simp] theorem statusCompleted_done (st : Status) : (statusCompleted st).done = true := rfl

@[simp] theorem statusCompleted_err (st : Status) : (statusCompleted st).err = st.err := rfl

@[simp] theorem statusCompleted_keyValid (st : Status) : (statusCompleted st).keyValid = st.keyValid := rfl

@[simp] theorem statusCompleted_errcode (st : Status) : (statusCompleted st).errcode = st.errcode := rfl

@[simp] theorem statusBusyError_busy (st : Status) : (statusBusyError st).busy = st.busy := rfl

@[simp] theorem statusBusyError_done (st : Status) : (statusBusyError st).done = st.done := rfl

@[simp] theorem statusBusyError_err (st : Status) : (statusBusyError st).err = true := rfl

@[simp] theorem statusBusyError_keyValid (st : Status) : (statusBusyError st).keyValid = st.keyValid := rfl

@[simp] theorem statusBusyError_errcode (st : Status) : (statusBusyError st).errcode = errorCode .busy := rfl

@[simp] theorem statusKeyWritten_busy (st : Status) : (statusKeyWritten st).busy = st.busy := rfl

@[simp] theorem statusKeyWritten_done (st : Status) : (statusKeyWritten st).done = st.done := rfl

@[simp] theorem statusKeyWritten_err (st : Status) : (statusKeyWritten st).err = st.err := rfl

@[simp] theorem statusKeyWritten_keyValid (st : Status) : (statusKeyWritten st).keyValid = false := rfl

@[simp] theorem statusKeyWritten_errcode (st : Status) : (statusKeyWritten st).errcode = st.errcode := rfl

@[simp] theorem statusKeyExpanded_busy (st : Status) : (statusKeyExpanded st).busy = st.busy := rfl

@[simp] theorem statusKeyExpanded_done (st : Status) : (statusKeyExpanded st).done = st.done := rfl

@[simp] theorem statusKeyExpanded_err (st : Status) : (statusKeyExpanded st).err = st.err := rfl

@[simp] theorem statusKeyExpanded_keyValid (st : Status) : (statusKeyExpanded st).keyValid = true := rfl

@[simp] theorem statusKeyExpanded_errcode (st : Status) : (statusKeyExpanded st).errcode = st.errcode := rfl

@[simp] theorem statusRaised_busy (e : EngineError) (st : Status) :
    (statusRaised e st).busy = false := rfl

@[simp] theorem statusRaised_done (e : EngineError) (st : Status) :
    (statusRaised e st).done = true := rfl

@[simp] theorem statusRaised_err (e : EngineError) (st : Status) :
    (statusRaised e st).err = true := rfl

@[simp] theorem statusRaised_keyValid (e : EngineError) (st : Status) :
    (statusRaised e st).keyValid = (if e = .keySize then false else st.keyValid) := rfl

@[simp] theorem statusRaised_errcode (e : EngineError) (st : Status) :
    (statusRaised e st).errcode = errorCode e := rfl

@[simp] theorem statusWriteClear_busy (v : Word) (st : Status) :
    (statusWriteClear v st).busy = st.busy := rfl

@[simp] theorem statusWriteClear_done (v : Word) (st : Status) :
    (statusWriteClear v st).done = (if v.getLsbD 1 then false else st.done) := rfl

@[simp] theorem statusWriteClear_err (v : Word) (st : Status) :
    (statusWriteClear v st).err = (if v.getLsbD 2 then false else st.err) := rfl

@[simp] theorem statusWriteClear_keyValid (v : Word) (st : Status) :
    (statusWriteClear v st).keyValid = st.keyValid := rfl

@[simp] theorem statusWriteClear_errcode (v : Word) (st : Status) :
    (statusWriteClear v st).errcode = (if v.getLsbD 2 then 0 else st.errcode) := rfl

/-! The host's interface -/

@[simp] theorem core_step : core.step = step := rfl

@[simp] theorem core_reset : core.reset = State.reset := rfl

end Sys2Proof.Machine
end

