-- ==== Sys2Proof/Laws/Ops.lean ====
section
/-! SUPPORT. What each shared operation can do, said once: the schedule store, the checks of a command, a register write and a
register read, and the position of an address in the window. -/

namespace Sys2Proof.Machine

/-! Commands -/

theorem requireKey_of_valid {s : State} (act : State → Result) (h : s.status.keyValid = true) :
    requireKey s act = act s := by
  simp [requireKey, h]

theorem requireKey_of_invalid {s : State} (act : State → Result) (h : s.status.keyValid = false) :
    requireKey s act = .next (raise .noKey s) := by
  simp [requireKey, h]

/-- The rounds of the Round Engine's domain are 10 and 14 (43_round_engine.md R212). -/
theorem roundsInDomain_iff (nr : BitVec 4) : roundsInDomain nr = true ↔ nr = 10#4 ∨ nr = 14#4 := by
  simp [roundsInDomain]

/-- An encryption that answers a next state writes DOUT, and CV too in CBC. -/
theorem encryptBlock_cases {x : Block} {s t : State} (h : encryptBlock x s = .next t) :
    roundsInDomain s.nr = true ∧
    ((s.ctrl.mode = .ecb ∧ t = encryptEcb x s) ∨ (s.ctrl.mode = .cbc ∧ t = encryptCbc x s)) := by
  unfold encryptBlock at h
  split at h
  · rename_i hd
    refine ⟨hd, ?_⟩
    split at h <;> simp_all
  · cases h

/-- What a command that answers a next state has done: it raised an error, expanded a key, reset the chain, wrote DOUT, or
wrote DOUT and CV in CBC. -/
theorem exec_cases {i : Instr} {s t : State} (h : exec i s = .next t) :
    (i = .keyExpand ∧ keySizeParams s.ctrl.keysize = none ∧ t = raise .keySize s) ∨
    (s.status.keyValid = false ∧ t = raise .noKey s) ∨
    ((∃ n, i = .addRoundKey n) ∧ s.status.keyValid = true ∧ t = raise .rkIdx s) ∨
    (i = .keyExpand ∧ ∃ nb nr, keySizeParams s.ctrl.keysize = some (nb, nr) ∧ t = expandKey nb nr s) ∨
    (i = .chainReset ∧ t = complete (setCv zeroMatrix s)) ∨
    (i ≠ .keyExpand ∧ i ≠ .chainReset ∧ ∃ o, t = complete (setDout o s)) ∨
    (s.ctrl.mode = .cbc ∧ (i = .encrypt ∨ i = .decrypt ∨ ∃ n, i = .encryptFinal n) ∧
      ∃ o M, t = complete (setDout o (setCv M s))) := by
  have henc : ∀ (x : Block) (j : Instr), (j = .encrypt ∨ j = .decrypt ∨ ∃ n, j = .encryptFinal n) →
      requireKey s (encryptBlock x) = .next t →
      (s.status.keyValid = false ∧ t = raise .noKey s) ∨
      (j ≠ .keyExpand ∧ j ≠ .chainReset ∧ ∃ o, t = complete (setDout o s)) ∨
      (s.ctrl.mode = .cbc ∧ (j = .encrypt ∨ j = .decrypt ∨ ∃ n, j = .encryptFinal n) ∧
        ∃ o M, t = complete (setDout o (setCv M s))) := by
    intro x j hj hx
    have hne : j ≠ .keyExpand ∧ j ≠ .chainReset := by
      rcases hj with rfl | rfl | ⟨n, rfl⟩ <;> simp
    by_cases hk : s.status.keyValid = true
    · rw [requireKey_of_valid _ hk] at hx
      obtain ⟨-, ⟨-, rfl⟩ | ⟨hm, rfl⟩⟩ := encryptBlock_cases hx
      · exact .inr (.inl ⟨hne.1, hne.2, _, rfl⟩)
      · exact .inr (.inr ⟨hm, hj, _, _, rfl⟩)
    · simp only [Bool.not_eq_true] at hk
      rw [requireKey_of_invalid _ hk] at hx
      cases hx
      exact .inl ⟨hk, rfl⟩
  have htr : ∀ f, (Host.Outcome.next (transformDin f s) : Result) = .next t → ∃ o, t = complete (setDout o s) := by
    intro f hf
    cases hf
    exact ⟨_, rfl⟩
  cases i with
  | keyExpand =>
    simp only [exec, execKeyExpand] at h
    split at h
    · rename_i hp
      cases h
      exact .inr (.inr (.inr (.inl ⟨rfl, _, _, hp, rfl⟩)))
    · rename_i hp
      cases h
      exact .inl ⟨rfl, hp, rfl⟩
  | chainReset =>
    cases h
    exact .inr (.inr (.inr (.inr (.inl ⟨rfl, rfl⟩))))
  | encrypt =>
    have he := henc (dinBlock s) .encrypt (.inl rfl) h
    rcases he with he | he | he
    · exact .inr (.inl he)
    · exact .inr (.inr (.inr (.inr (.inr (.inl he)))))
    · exact .inr (.inr (.inr (.inr (.inr (.inr he)))))
  | encryptFinal n =>
    have he := henc (padBlock (dinBlock s) n) (.encryptFinal n) (.inr (.inr ⟨n, rfl⟩)) h
    rcases he with he | he | he
    · exact .inr (.inl he)
    · exact .inr (.inr (.inr (.inr (.inr (.inl he)))))
    · exact .inr (.inr (.inr (.inr (.inr (.inr he)))))
  | decrypt =>
    simp only [exec, execDecrypt] at h
    by_cases hk : s.status.keyValid = true
    · rw [requireKey_of_valid _ hk] at h
      split at h
      · split at h
        · cases h
          exact .inr (.inr (.inr (.inr (.inr (.inl ⟨by simp, by simp, _, rfl⟩)))))
        · rename_i hm
          cases h
          exact .inr (.inr (.inr (.inr (.inr (.inr ⟨hm, .inr (.inl rfl), _, _, rfl⟩)))))
      · cases h
    · simp only [Bool.not_eq_true] at hk
      rw [requireKey_of_invalid _ hk] at h
      cases h
      exact .inr (.inl ⟨hk, rfl⟩)
  | addRoundKey n =>
    simp only [exec, execAddRoundKey] at h
    by_cases hk : s.status.keyValid = true
    · rw [requireKey_of_valid _ hk] at h
      split at h
      · cases h
        exact .inr (.inr (.inl ⟨⟨n, rfl⟩, hk, rfl⟩))
      · split at h
        · exact .inr (.inr (.inr (.inr (.inr (.inl ⟨by simp, by simp, htr _ h⟩)))))
        · cases h
    · simp only [Bool.not_eq_true] at hk
      rw [requireKey_of_invalid _ hk] at h
      cases h
      exact .inr (.inl ⟨hk, rfl⟩)
  | subBytes | invSubBytes | shiftRows | invShiftRows | mixColumns | invMixColumns =>
    exact .inr (.inr (.inr (.inr (.inr (.inl ⟨by simp, by simp, htr _ h⟩)))))

/-! Register accesses -/

@[simp] theorem modeBit_modeOfBit (b : Bool) : modeBit (modeOfBit b) = b := by
  cases b <;> rfl

@[simp] theorem modeOfBit_modeBit (m : Mode) : modeOfBit (modeBit m) = m := by
  cases m <;> rfl

theorem unlessBusy_of_busy {s : State} (f : State → State) (h : s.status.busy = true) :
    unlessBusy f s = dropWrite s := by
  simp [unlessBusy, h]

theorem unlessBusy_of_idle {s : State} (f : State → State) (h : s.status.busy = false) :
    unlessBusy f s = f s := by
  simp [unlessBusy, h]

/-- What a register write can do: nothing, clear flags, be dropped while BUSY, or be accepted while BUSY is 0. -/
theorem writeReg_cases (r : Reg) (v : Word) (s : State) :
    (writeReg r v s = s ∧ (r = .reserved ∨ ∃ w, r = .dout w)) ∨
    (r = .status ∧ writeReg r v s = writeStatus v s) ∨
    (s.status.busy = true ∧ writeReg r v s = dropWrite s ∧ r ≠ .status ∧ r ≠ .reserved ∧ ∀ w, r ≠ .dout w) ∨
    (s.status.busy = false ∧
      ((r = .ctrl ∧ writeReg r v s = storeCtrl v s) ∨ (r = .cmd ∧ writeReg r v s = acceptCmd v s) ∨
       (∃ w, r = .key w ∧ writeReg r v s = storeKey w v s) ∨ (∃ w, r = .din w ∧ writeReg r v s = storeDin w v s))) := by
  cases r <;> cases hb : s.status.busy <;> simp [writeReg, unlessBusy, hb]

/-- A register read moves at most the draw counter. -/
theorem readReg_state (r : Reg) (s : State) : (readReg r s).2 = s ∨ (readReg r s).2 = drawOne s := by
  cases r <;> simp [readReg, anyWord]
  split <;> simp

/-! Addresses -/

/-- `BASE` is a multiple of 256, so the window decodes the offset that was added to it (20_memory.md R66, R67). -/
@[simp] theorem offsetOf_base_add {off : Nat} (h : off < 0x100) : offsetOf (Config.base + off) = off := by
  simp only [offsetOf, Config.base]
  omega

@[simp] theorem inWindow_base_add {off : Nat} (h : off < 0x100) : inWindow (Config.base + off) = true := by
  simp only [inWindow, decide_eq_true_eq]
  omega

/-- A host write at an aligned offset, once `rst` is settled: what the register does with it. -/
theorem hostWrites_of_writeReg {s t : State} {off : Nat} {v : Word} (ho : off < 0x100) (h4 : off % 4 = 0)
    (h : ∀ rest, (if s.rst then ({ s with schedule := rest } : State)
        else writeReg (regAt off) v { s with schedule := rest }) = { t with schedule := rest, bus := s.bus }) :
    hostWrites s off v t := by
  intro rest
  have h' := h rest
  simp only [step, hostAccess, answerAccess, inWindow_base_add ho, offsetOf_base_add ho, windowWrite, admitted, h4]
  simp [logTransaction, h']

/-- A host read at an aligned offset, once `rst` is settled: what the register answers. -/
theorem hostReads_of_readReg {s t : State} {off : Nat} {w : Word} (ho : off < 0x100) (h4 : off % 4 = 0)
    (h : ∀ rest, (if s.rst then anyWord ({ s with schedule := rest } : State)
        else readReg (regAt off) { s with schedule := rest }) = (w, { t with schedule := rest, bus := s.bus })) :
    hostReads s off w t := by
  intro rest
  have h' := h rest
  simp only [step, hostAccess, answerAccess, inWindow_base_add ho, offsetOf_base_add ho, windowRead, admitted, h4]
  simp [logTransaction, h']

/-- What an access can do: leave the engine as it is, draw one free value, or write a register. -/
theorem answerAccess_cases (a : Access) (s : State) :
    (answerAccess a s).2 = s ∨ (answerAccess a s).2 = drawOne s ∨
    (s.rst = false ∧ ∃ addr v, a = .write addr 4 v ∧ inWindow addr = true ∧ offsetOf addr % 4 = 0 ∧
      (answerAccess a s).2 = writeReg (regAt (offsetOf addr)) v s) := by
  cases a with
  | read addr width =>
    by_cases hw : inWindow addr = true
    · by_cases ha : admitted (offsetOf addr) width = true
      · by_cases hr : s.rst = true
        · exact .inr (.inl (by simp [answerAccess, windowRead, hw, ha, hr, anyWord]))
        · rcases readReg_state (regAt (offsetOf addr)) s with h | h
          · exact .inl (by simp [answerAccess, windowRead, hw, ha, hr, h])
          · exact .inr (.inl (by simp [answerAccess, windowRead, hw, ha, hr, h]))
      · exact .inl (by simp [answerAccess, windowRead, hw, ha])
    · exact .inl (by simp [answerAccess, hw])
  | write addr width v =>
    by_cases hw : inWindow addr = true
    · by_cases ha : admitted (offsetOf addr) width = true
      · by_cases hr : s.rst = true
        · exact .inl (by simp [answerAccess, windowWrite, hw, ha, hr])
        · have ha' := ha
          simp only [admitted, decide_eq_true_eq] at ha'
          obtain ⟨rfl, h4⟩ := ha'
          exact .inr (.inr ⟨by simpa using hr, addr, v, rfl, hw, h4, by simp [answerAccess, windowWrite, hw, ha, hr]⟩)
      · exact .inl (by simp [answerAccess, windowWrite, hw, ha])
    · exact .inl (by simp [answerAccess, hw])

end Sys2Proof.Machine
end

