-- ==== Sys2Proof/Laws/Step.lean ====
section
/-! SUPPORT. What one step can do, said once (`step_cases`), and the step of each kind of turn. -/

namespace Sys2Proof.Machine

theorem pendingWord_of_pending {s : State} {w : Word} (h : pending s w) : pendingWord s = some w := by
  obtain ⟨hr, hb, rfl⟩ := h
  simp [pendingWord, hr, hb]

theorem pending_of_pendingWord {s : State} {w : Word} (h : pendingWord s = some w) : pending s w := by
  unfold pendingWord at h
  split at h
  · cases h
  · split at h
    · rename_i hr hb
      exact ⟨by simpa using hr, hb, by simpa using h⟩
    · cases h

/-- The engine's turn: nothing is pending and nothing happens, or the pending word's command is performed, or the word is
illegal and E_ILLEGAL_CMD is raised. -/
theorem engineTurn_cases {s t : State} (h : engineTurn s = .next t) :
    (pendingWord s = none ∧ t = s) ∨
    (pending s s.pend ∧ ∃ i, decode s.pend = .ok i ∧ exec i s = .next t) ∨
    (pending s s.pend ∧ (∃ e, decode s.pend = .error e) ∧ t = raise .illegalCmd s) := by
  unfold engineTurn at h
  split at h
  · rename_i hp
    cases h
    exact .inl ⟨hp, rfl⟩
  · rename_i w hp
    have hpen := pending_of_pendingWord hp
    obtain ⟨hr, hb, rfl⟩ := hpen
    split at h
    · rename_i i hi
      exact .inr (.inl ⟨⟨hr, hb, rfl⟩, i, hi, h⟩)
    · rename_i e he
      cases h
      exact .inr (.inr ⟨⟨hr, hb, rfl⟩, ⟨e, he⟩, rfl⟩)

/-- What a step that answers a next state has done, in terms of the state `s0` with the played turn taken off. -/
theorem step_cases {s t : State} (h : step s = .next t) :
    ∃ rest, (s.schedule = [] ∧ rest = [] ∨ s.schedule.tail = rest ∧ s.schedule ≠ []) ∧
    ((engineNext s ∧ engineTurn { s with schedule := rest } = .next t) ∨
     (∃ a, s.schedule = .host a :: rest ∧ t = hostAccess a { s with schedule := rest }) ∨
     (assertNext s ∧ t = assertReset { s with schedule := rest }) ∨
     (s.schedule = .releaseRst :: rest ∧ t = releaseReset { s with schedule := rest })) := by
  unfold step at h
  split at h <;> rename_i hs
  · refine ⟨[], .inl ⟨hs, rfl⟩, .inl ⟨.inl hs, ?_⟩⟩
    rw [show ({ s with schedule := [] } : State) = s by rw [← hs]]
    exact h
  · exact ⟨_, .inr ⟨by simp [hs], by simp [hs]⟩, .inl ⟨.inr ⟨_, hs⟩, h⟩⟩
  · cases h
    exact ⟨_, .inr ⟨by simp [hs], by simp [hs]⟩, .inr (.inl ⟨_, hs, rfl⟩)⟩
  · cases h
    exact ⟨_, .inr ⟨by simp [hs], by simp [hs]⟩, .inr (.inr (.inl ⟨⟨_, hs⟩, rfl⟩))⟩
  · cases h
    exact ⟨_, .inr ⟨by simp [hs], by simp [hs]⟩, .inr (.inr (.inr ⟨hs, rfl⟩))⟩

end Sys2Proof.Machine
end

