-- ==== Sys2Proof/Laws/Driver.lean ====
section
/-! SUPPORT. Taking a list of turns one by one, and the decisions of the driver (spec/44_mode_layer.md R243, R244, R246). -/

namespace Sys2Proof.Machine

/-- A command leaves the host's schedule alone. -/
theorem exec_schedule {i : Instr} {s t : State} (h : exec i s = .next t) : t.schedule = s.schedule := by
  rcases exec_cases h with ⟨-, -, rfl⟩ | ⟨-, rfl⟩ | ⟨-, -, rfl⟩ | ⟨-, _, _, -, rfl⟩ | ⟨-, rfl⟩ | ⟨-, -, _, rfl⟩ |
    ⟨-, -, _, _, rfl⟩ <;> simp [expandKey]

/-- A host access leaves the host's schedule alone. -/
theorem hostAccess_schedule (a : Access) (s : State) : (hostAccess a s).schedule = s.schedule := by
  rcases answerAccess_cases a s with h | h | ⟨-, _, v, -, -, -, h⟩
  · simp only [hostAccess, logTransaction, h]
  · simp only [hostAccess, logTransaction, h, drawOne]
  · simp only [hostAccess, logTransaction, h]
    rcases writeReg_cases (regAt (offsetOf _)) v s with ⟨h, -⟩ | ⟨-, h⟩ | ⟨-, h, -⟩ | ⟨-, ⟨-, h⟩ | ⟨-, h⟩ |
      ⟨_, -, h⟩ | ⟨_, -, h⟩⟩ <;> rw [h] <;> rfl

/-- A step takes exactly the first turn off the schedule. -/
theorem step_schedule {t : Turn} {ts : List Turn} {s s' : State}
    (h : step { s with schedule := t :: ts } = .next s') : s'.schedule = ts := by
  cases t with
  | engine =>
    rcases engineTurn_cases h with ⟨-, rfl⟩ | ⟨-, _, -, hx⟩ | ⟨-, -, rfl⟩
    · rfl
    · exact exec_schedule hx
    · rfl
  | host a =>
    cases h
    exact hostAccess_schedule a _
  | assertRst | releaseRst =>
    cases h
    rfl

/-- The outcome with another schedule in its next state. -/
def withSchedule (ts : List Turn) : Result → Result
  | .next s => .next { s with schedule := ts }
  | .fault r => .fault r
  | .refused r => .refused r

/-- No command reads the schedule. -/
theorem exec_withSchedule (i : Instr) (s : State) (ts : List Turn) :
    exec i { s with schedule := ts } = withSchedule ts (exec i s) := by
  have henc : ∀ x : Block, encryptBlock x { s with schedule := ts } = withSchedule ts (encryptBlock x s) := by
    intro x
    cases hd : roundsInDomain s.nr <;> cases hm : s.ctrl.mode <;> simp [encryptBlock, hd, hm, withSchedule] <;> rfl
  have hkey : ∀ act : State → Result, act { s with schedule := ts } = withSchedule ts (act s) →
      requireKey { s with schedule := ts } act = withSchedule ts (requireKey s act) := by
    intro act h
    cases hk : s.status.keyValid
    · simp only [requireKey, hk, withSchedule, Bool.false_eq_true, if_false]
      rfl
    · simp [requireKey, hk, h]
  cases i with
  | keyExpand =>
    cases hp : keySizeParams s.ctrl.keysize <;> simp [exec, execKeyExpand, hp, withSchedule] <;> rfl
  | encrypt => exact hkey _ (henc _)
  | encryptFinal len => exact hkey _ (henc _)
  | decrypt =>
    simp only [exec, execDecrypt]
    refine hkey _ ?_
    cases hd : roundsInDomain s.nr
    · rfl
    · cases hm : s.ctrl.mode
      · rfl
      · rfl
  | addRoundKey n =>
    simp only [exec, execAddRoundKey]
    refine hkey _ ?_
    by_cases h : n > s.nr.toNat <;> by_cases h15 : n < 15 <;> simp [h, h15, withSchedule] <;> rfl
  | chainReset | subBytes | invSubBytes | shiftRows | invShiftRows | mixColumns | invMixColumns => rfl

/-- The engine's turn does not read the schedule. -/
theorem engineTurn_withSchedule (s : State) (ts : List Turn) :
    engineTurn { s with schedule := ts } = withSchedule ts (engineTurn s) := by
  unfold engineTurn
  rw [show pendingWord { s with schedule := ts } = pendingWord s from rfl]
  cases pendingWord s with
  | none => rfl
  | some w =>
    cases hd : decode w with
    | ok i => simpa [hd] using exec_withSchedule i s ts
    | error e => simp [hd, withSchedule]; rfl

/-- A host access does not read the schedule. -/
theorem hostAccess_withSchedule (a : Access) (s : State) (ts : List Turn) :
    hostAccess a { s with schedule := ts } = { hostAccess a s with schedule := ts } := by
  have hw : ∀ r v, writeReg r v { s with schedule := ts } = { writeReg r v s with schedule := ts } := by
    intro r v
    cases r <;> cases hb : s.status.busy <;> simp [writeReg, unlessBusy, hb] <;> rfl
  have hr : ∀ r, readReg r { s with schedule := ts } =
      ((readReg r s).1, { (readReg r s).2 with schedule := ts }) := by
    intro r
    cases r with
    | dout w =>
      cases hb : s.status.busy
      · simp [readReg, hb]
      · simp [readReg, hb, anyWord, drawOne]
    | ctrl | status | cmd | key | din | reserved => rfl
  have hwr : ∀ off width, windowRead off width { s with schedule := ts } =
      ((windowRead off width s).1, { (windowRead off width s).2 with schedule := ts }) := by
    intro off width
    by_cases ha : admitted off width = true
    · by_cases h : s.rst = true
      · simp only [windowRead, if_pos ha, if_pos h, anyWord, drawOne]
      · simp only [windowRead, if_pos ha, if_neg h, hr]
    · simp only [windowRead, if_neg ha]
  have hww : ∀ off width v, windowWrite off width v { s with schedule := ts } =
      ((windowWrite off width v s).1, { (windowWrite off width v s).2 with schedule := ts }) := by
    intro off width v
    by_cases ha : admitted off width = true
    · by_cases h : s.rst = true
      · simp only [windowWrite, if_pos ha, if_pos h]
      · simp only [windowWrite, if_pos ha, if_neg h, hw]
    · simp only [windowWrite, if_neg ha]
  cases a with
  | read addr width =>
    by_cases h : inWindow addr = true
    · simp only [hostAccess, logTransaction, answerAccess, if_pos h, hwr]
    · simp only [hostAccess, logTransaction, answerAccess, if_neg h]
  | write addr width v =>
    by_cases h : inWindow addr = true
    · simp only [hostAccess, logTransaction, answerAccess, if_pos h, hww]
    · simp only [hostAccess, logTransaction, answerAccess, if_neg h]

/-- What a turn does depends on the state without its schedule, and leaves the rest of the schedule. -/
theorem step_withSchedule (t : Turn) (ts us : List Turn) (s : State) :
    step { s with schedule := t :: us } = withSchedule us (step { s with schedule := t :: ts }) := by
  cases t with
  | engine =>
    change engineTurn { ({ s with schedule := ts } : State) with schedule := us } = _
    exact engineTurn_withSchedule _ _
  | host a =>
    change Host.Outcome.next (hostAccess a { ({ s with schedule := ts } : State) with schedule := us }) = _
    rw [hostAccess_withSchedule]
    rfl
  | assertRst | releaseRst => rfl

/-- Taking turns, one step first. -/
theorem playTurns_step (t : Turn) (ts : List Turn) (s : State) :
    playTurns (t :: ts) s =
      match step { s with schedule := t :: ts } with
      | .next u => Host.Core.run core ts.length u
      | .fault r => .fault r
      | .refused r => .refused r := by
  simp only [playTurns, List.length_cons, Host.Core.run, core]
  cases step { s with schedule := t :: ts } <;> rfl

@[simp] theorem playTurns_nil (s : State) : playTurns [] s = .next { s with schedule := [] } := rfl

/-- Turns are taken one by one. -/
theorem playTurns_cons {t : Turn} {ts : List Turn} {s s' : State}
    (h : step { s with schedule := t :: ts } = .next s') : playTurns (t :: ts) s = playTurns ts s' := by
  rw [playTurns_step, h, playTurns, show ({ s' with schedule := ts } : State) = s' by rw [← step_schedule h]]

/-- A list of turns in two parts is taken part by part. -/
theorem playTurns_append {ts us : List Turn} {s t : State} (h : playTurns ts s = .next t) :
    playTurns (ts ++ us) s = playTurns us t := by
  induction ts generalizing s with
  | nil =>
    cases h
    rfl
  | cons a ts ih =>
    cases hs : step { s with schedule := a :: ts } with
    | next u =>
      have hs' : step { s with schedule := a :: (ts ++ us) } = .next { u with schedule := ts ++ us } := by
        rw [step_withSchedule a ts, hs]
        rfl
      rw [List.cons_append, playTurns_cons hs']
      rw [playTurns_cons hs] at h
      exact ih h
    | fault r =>
      rw [playTurns_step, hs] at h
      cases h
    | refused r =>
      rw [playTurns_step, hs] at h
      cases h

/-- The driver reads ERR = 0 exactly when the newest answer is a word with bit 2 clear. -/
@[simp] theorem errReadClear_cons (a : Access) (w : Word) (bus : List Transaction) :
    errReadClear (⟨a, .data w⟩ :: bus) = !w.getLsbD 2 := rfl

@[simp] theorem hostOutput_nil : hostOutput [] = [] := rfl

/-- Each transaction appends its bytes to the host's output. -/
@[simp] theorem hostOutput_cons (t : Transaction) (bus : List Transaction) :
    hostOutput (t :: bus) = hostOutput bus ++ outputBytes t := by
  simp [hostOutput]

/-- A truncated ciphertext is refused, whatever the driver would do. -/
theorem unlessTruncated_of_truncated {C : List Byte} (d : DriverEnd) (h : C.length % 16 ≠ 0) :
    unlessTruncated C d = .refused := if_neg h

theorem unlessTruncated_of_whole {C : List Byte} (d : DriverEnd) (h : C.length % 16 = 0) :
    unlessTruncated C d = d := if_pos h

/-- What follows the prologue, once its last read is known. -/
theorem afterPrologue_of_clear {lat : Nat → Nat} {m : Mode} {K : List Byte} {body : List Turn} {s t : State}
    (h : playTurns (prologueTurns lat m K) s = .next t) (he : errReadClear t.bus = true) :
    afterPrologue lat m K body s = finishStream body t := by
  simp [afterPrologue, h, he]

theorem afterPrologue_of_error {lat : Nat → Nat} {m : Mode} {K : List Byte} {body : List Turn} {s t : State}
    (h : playTurns (prologueTurns lat m K) s = .next t) (he : errReadClear t.bus = false) :
    afterPrologue lat m K body s = .aborted t := by
  simp [afterPrologue, h, he]

end Sys2Proof.Machine
end

