-- ==== Sys2Proof/Laws/PerInstr.lean ====
section
/-! SUPPORT. Statements about every command, one lemma per constructor.  `OpcodeWord`: the word of a well-formed command has an
assigned `OP`, no reserved bit, and the operand fields its command uses (spec/30_encoding.md R90, R94). -/

namespace Sys2Proof.Laws

/-- The word of a well-formed command, read field by field (R90). -/
def OpcodeWord.Statement (i : Instr) : Prop :=
  i.wf = true →
    opField (encode i) ∈ assignedOps ∧ encode i &&& 0xFFF0F000#32 = 0#32 ∧
    (lenField (encode i) = match i with | .encryptFinal len => len | _ => 0) ∧
    (rkidxField (encode i) = match i with | .addRoundKey rkidx => rkidx | _ => 0)

theorem OpcodeWord.keyExpand : OpcodeWord.Statement .keyExpand := by
  intro _
  decide

theorem OpcodeWord.chainReset : OpcodeWord.Statement .chainReset := by
  intro _
  decide

theorem OpcodeWord.encrypt : OpcodeWord.Statement .encrypt := by
  intro _
  decide

theorem OpcodeWord.decrypt : OpcodeWord.Statement .decrypt := by
  intro _
  decide

theorem OpcodeWord.encryptFinal (len : Nat) : OpcodeWord.Statement (.encryptFinal len) := by
  intro h
  simp only [Instr.wf, decide_eq_true_eq] at h
  interval_cases len <;> decide

theorem OpcodeWord.subBytes : OpcodeWord.Statement .subBytes := by
  intro _
  decide

theorem OpcodeWord.invSubBytes : OpcodeWord.Statement .invSubBytes := by
  intro _
  decide

theorem OpcodeWord.shiftRows : OpcodeWord.Statement .shiftRows := by
  intro _
  decide

theorem OpcodeWord.invShiftRows : OpcodeWord.Statement .invShiftRows := by
  intro _
  decide

theorem OpcodeWord.mixColumns : OpcodeWord.Statement .mixColumns := by
  intro _
  decide

theorem OpcodeWord.invMixColumns : OpcodeWord.Statement .invMixColumns := by
  intro _
  decide

theorem OpcodeWord.addRoundKey (rkidx : Nat) : OpcodeWord.Statement (.addRoundKey rkidx) := by
  intro h
  simp only [Instr.wf, decide_eq_true_eq] at h
  interval_cases rkidx <;> decide

end Sys2Proof.Laws
end

