-- ==== Sys2Proof/Tests/Slice0.lean ====
section
/-! SUPPORT. Tests on the values of spec/95_test_vectors.md and of the rules named, and for every statement that has
hypotheses a witness: a concrete state and operands that meet them.  Expected values come from the spec, never from the
model. -/

set_option Elab.async false

namespace Sys2Proof.Tests

open Sys2Proof Sys2Proof.Machine

/-! ### States the tests start from -/

/-- The key `000102..0f` of 95_test_vectors.md W1, in KEY0..KEY3. -/
def keyRegs : Vector Word 8 := #v[0x00010203, 0x04050607, 0x08090a0b, 0x0c0d0e0f, 0, 0, 0, 0]

/-- The key `000102..1f` of 95_test_vectors.md V5.4. -/
def keyRegs256 : Vector Word 8 :=
  #v[0x00010203, 0x04050607, 0x08090a0b, 0x0c0d0e0f, 0x10111213, 0x14151617, 0x18191a1b, 0x1c1d1e1f]

/-- The plaintext `00112233..ff` of W1. -/
def plain : Vector Word 4 := #v[0x00112233, 0x44556677, 0x8899aabb, 0xccddeeff]

/-- The ciphertext of W1. -/
def crypt : Vector Word 4 := #v[0x69c4e0d8, 0x6a7b0430, 0xd8cdb780, 0x70b4c55a]

/-- The counting block `000102..0f`. -/
def counting : Vector Word 4 := #v[0x00010203, 0x04050607, 0x08090a0b, 0x0c0d0e0f]

/-- Idle with a key size, a mode, a 256-bit key register set (a 128-bit one is its first half) and a DIN block. -/
def idle (m : Mode) (ks : BitVec 2) (d : Vector Word 4) : State :=
  { State.reset with ctrl := { Ctrl.reset with mode := m, keysize := ks }, key := keyRegs256, din := d }

/-- The same after KEY_EXPAND of the 128-bit key. -/
def ready (m : Mode) (d : Vector Word 4) : State := expandKey 1 10 (idle m 0b00#2 d)

/-- The same after KEY_EXPAND of the 256-bit key. -/
def ready256 (m : Mode) (d : Vector Word 4) : State := expandKey 2 14 (idle m 0b10#2 d)

/-- `s` with the command word `w` pending. -/
def issued (w : Word) (s : State) : State := acceptCmd w s

/-- DOUT after a next state. -/
def doutOf : Result → Option (Vector Word 4)
  | .next t => some t.dout
  | .fault _ => none
  | .refused _ => none

/-- The word STATUS reads as after a next state. -/
def statusOf : Result → Option Word
  | .next t => some (statusWord t.status)
  | .fault _ => none
  | .refused _ => none

/-- CV after a next state. -/
def cvOf : Result → Option ByteMatrix
  | .next t => some t.cv
  | .fault _ => none
  | .refused _ => none

/-- Register words of round key `i` after a next state. -/
def roundKeyOf (i : Fin 15) : Result → Option (Vector Word 4)
  | .next t => some (wordsOfBlock (serialize t.rk[i]))
  | .fault _ => none
  | .refused _ => none

/-! ### Well-formedness (30_encoding.md R92, R93) -/

theorem test_wf_refuses_len_16 : (Instr.encryptFinal 16).wf = false := by decide
theorem test_wf_refuses_rkidx_16 : (Instr.addRoundKey 16).wf = false := by decide
theorem test_wf_accepts_the_largest_operands :
    (Instr.encryptFinal 15).wf = true ∧ (Instr.addRoundKey 15).wf = true := by decide

/-! ### Encoding (95_test_vectors.md V8.1, V8.2; 30_encoding.md R94, R95) -/

theorem test_decode_keyExpand : decode 0b00000000000000000000000000000001#32 = .ok .keyExpand := by decide
theorem test_decode_chainReset : decode 0b00000000000000000000000000000010#32 = .ok .chainReset := by decide
theorem test_decode_encrypt : decode 0b00000000000000000000000000010000#32 = .ok .encrypt := by decide
theorem test_decode_decrypt : decode 0b00000000000000000000000000010001#32 = .ok .decrypt := by decide
theorem test_decode_encryptFinal :
    decode 0b00000000000000000000000000010010#32 = .ok (.encryptFinal 0) ∧
    decode 0b00000000000000000000111100010010#32 = .ok (.encryptFinal 15) ∧
    decode 0x00000212#32 = .ok (.encryptFinal 2) := by decide
theorem test_decode_subBytes : decode 0b00000000000000000000000000100000#32 = .ok .subBytes := by decide
theorem test_decode_invSubBytes : decode 0b00000000000000000000000000100001#32 = .ok .invSubBytes := by decide
theorem test_decode_shiftRows : decode 0b00000000000000000000000000100010#32 = .ok .shiftRows := by decide
theorem test_decode_invShiftRows : decode 0b00000000000000000000000000100011#32 = .ok .invShiftRows := by decide
theorem test_decode_mixColumns : decode 0b00000000000000000000000000100100#32 = .ok .mixColumns := by decide
theorem test_decode_invMixColumns : decode 0b00000000000000000000000000100101#32 = .ok .invMixColumns := by decide
theorem test_decode_addRoundKey :
    decode 0b00000000000000000000000000100110#32 = .ok (.addRoundKey 0) ∧
    decode 0b00000000000011100000000000100110#32 = .ok (.addRoundKey 14) ∧
    decode 0x000b0026#32 = .ok (.addRoundKey 11) := by decide

theorem test_decode_rejects_unassigned_op :
    [0x00000000#32, 0x00000003#32, 0x00000013#32, 0x00000027#32, 0x000000ff#32].map decode =
      List.replicate 5 (.error .unassignedOp) := by decide
theorem test_decode_rejects_stray_fields :
    decode 0x00000110#32 = .error .strayLen ∧ decode 0x00000126#32 = .error .strayLen ∧
    decode 0x00010010#32 = .error .strayRkidx ∧ decode 0x00010012#32 = .error .strayRkidx := by decide
theorem test_decode_rejects_reserved_bits :
    [0x00001012#32, 0x00100026#32, 0x80000001#32].map decode = List.replicate 3 (.error .reservedBits) := by decide

theorem test_decodeTableWord :
    decodeTableWord 32 0x00000f12 = some (.encryptFinal 15) ∧ decodeTableWord 32 0x27 = none := by decide

/-! ### Byte matrix, tables and field (95_test_vectors.md V2, V3) -/

theorem test_load_is_column_major :
    load (blockOfWords counting) =
      ⟨⟨0x00, 0x01, 0x02, 0x03⟩, ⟨0x04, 0x05, 0x06, 0x07⟩, ⟨0x08, 0x09, 0x0a, 0x0b⟩, ⟨0x0c, 0x0d, 0x0e, 0x0f⟩⟩ := by
  decide +kernel
theorem test_serialize_is_column_major :
    wordsOfBlock (serialize ⟨⟨0x69, 0xc4, 0xe0, 0xd8⟩, ⟨0x6a, 0x7b, 0x04, 0x30⟩, ⟨0xd8, 0xcd, 0xb7, 0x80⟩,
      ⟨0x70, 0xb4, 0xc5, 0x5a⟩⟩) = crypt := by decide +kernel
theorem test_setColumn_and_column :
    wordsOfBlock (serialize (setColumn (load (blockOfWords plain)) ⟨0xde, 0xad, 0xbe, 0xef⟩ 1)) =
      #v[0x00112233, 0xdeadbeef, 0x8899aabb, 0xccddeeff] ∧
    column (load (blockOfWords plain)) 2 = ⟨0x88, 0x99, 0xaa, 0xbb⟩ := by decide +kernel
theorem test_combine :
    wordsOfBlock (serialize (combine (load (blockOfWords plain)) (load (blockOfWords counting)))) =
      #v[0x00102030, 0x40506070, 0x8090a0b0, 0xc0d0e0f0] ∧
    combineBlock (load (blockOfWords plain)) (blockOfWords counting) =
      combine (load (blockOfWords plain)) (load (blockOfWords counting)) := by decide +kernel
theorem test_sbox_values :
    sbox 0x00 = 0x63#8 ∧ sbox 0xff = 0x16#8 ∧ sbox 0x53 = 0xed#8 ∧ invSbox 0x00 = 0x52#8 ∧ invSbox 0x63 = 0x00#8 ∧
    gmul 0x53 0xca = 0x01#8 ∧ affine 0xca = 0xed#8 := by decide +kernel
theorem test_field_values :
    [0x57, 0xae, 0x47, 0x8e, 0x80, 0xff].map xtime = [0xae#8, 0x47#8, 0x8e#8, 0x07#8, 0x1b#8, 0xe5#8] ∧
    gmul 0x57 0x83 = 0xc1#8 ∧ gmul 0x57 0x13 = 0xfe#8 := by decide +kernel
theorem test_round_constants :
    (List.range' 1 10).map rc = [0x01#8, 0x02#8, 0x04#8, 0x08#8, 0x10#8, 0x20#8, 0x40#8, 0x80#8, 0x1b#8, 0x36#8] := by
  decide +kernel

/-! ### One command each (95_test_vectors.md V4, V5, V6, V7, V8.3) -/

theorem test_keyExpand_round_keys :
    roundKeyOf 2 (exec .keyExpand (idle .ecb 0b00#2 plain)) =
      some #v[0xb692cf0b, 0x643dbdf1, 0xbe9bc500, 0x6830b3fe] ∧
    roundKeyOf 10 (exec .keyExpand (idle .ecb 0b00#2 plain)) =
      some #v[0x13111d7f, 0xe3944a17, 0xf307a78b, 0x4d2b30c5] ∧
    statusOf (exec .keyExpand (idle .ecb 0b00#2 plain)) = some 0x0a#32 := by decide +kernel
theorem test_keyExpand_256_round_keys :
    roundKeyOf 3 (exec .keyExpand (idle .ecb 0b10#2 plain)) =
      some #v[0x1651a8cd, 0x0244beda, 0x1a5da4c1, 0x0640bade] ∧
    roundKeyOf 14 (exec .keyExpand (idle .ecb 0b10#2 plain)) =
      some #v[0x24fc79cc, 0xbf0979e9, 0x371ac23c, 0x6d68de36] ∧
    statusOf (exec .keyExpand (idle .ecb 0b01#2 plain)) = some 0x26#32 := by decide +kernel

theorem test_chainReset_clears_cv :
    cvOf (exec .chainReset { ready .cbc plain with cv := load (blockOfWords crypt) }) = some zeroMatrix ∧
    statusOf (exec .chainReset State.reset) = some 0x02#32 := by decide +kernel

theorem test_encrypt_known_answers :
    doutOf (exec .encrypt (ready .ecb plain)) = some crypt ∧
    doutOf (exec .encrypt (ready256 .ecb plain)) = some #v[0x8ea2b7ca, 0x516745bf, 0xeafc4990, 0x4b496089] := by
  decide +kernel
theorem test_encrypt_chains_in_cbc :
    doutOf (exec .encrypt { ready .cbc plain with cv := load (blockOfWords crypt) }) =
      some #v[0x7d7786be, 0x32d059a6, 0x0ca8021a, 0x65dd9f09] ∧
    cvOf (exec .encrypt (ready .cbc plain)) = some (load (blockOfWords crypt)) ∧
    statusOf (exec .encrypt State.reset) = some 0x36#32 := by decide +kernel

theorem test_decrypt_in_ecb :
    doutOf (exec .decrypt (ready .ecb crypt)) = some plain ∧
    doutOf (exec .decrypt (ready .ecb #v[0, 0, 0, 0])) = some #v[0x7b1d29a1, 0x6cf8ccab, 0x84f0b8a5, 0x98e42fa6] := by
  decide +kernel
theorem test_decrypt_chains_in_cbc :
    doutOf (exec .decrypt { ready .cbc #v[0xb701f46f, 0xe03c5243, 0x27f75f66, 0xa7b95196] with
      cv := load (blockOfWords #v[0xf80dfe78, 0x646fad2b, 0xb5aae002, 0xdf63ae33]) }) =
      some #v[0x65210e0e, 0x0e0e0e0e, 0x0e0e0e0e, 0x0e0e0e0e] ∧
    cvOf (exec .decrypt (ready .cbc crypt)) = some (load (blockOfWords crypt)) := by decide +kernel

theorem test_encryptFinal_pads :
    doutOf (exec (.encryptFinal 0) (ready .ecb plain)) = some #v[0x954f64f2, 0xe4e86e9e, 0xee82d202, 0x16684899] ∧
    doutOf (exec (.encryptFinal 9) (ready .ecb plain)) = some #v[0x699cf97d, 0x1bf4c3ed, 0xadb121d2, 0x7b193e61] ∧
    doutOf (exec (.encryptFinal 15) (ready .ecb plain)) = some #v[0x77a0785a, 0x36a150ed, 0x8831ce8a, 0xef66ded4] := by
  decide +kernel
theorem test_encryptFinal_chains_in_cbc :
    doutOf (exec (.encryptFinal 2) { ready .cbc #v[0x65210000, 0, 0, 0] with
      cv := load (blockOfWords #v[0xf80dfe78, 0x646fad2b, 0xb5aae002, 0xdf63ae33]) }) =
      some #v[0xb701f46f, 0xe03c5243, 0x27f75f66, 0xa7b95196] := by decide +kernel

theorem test_subBytes :
    doutOf (exec .subBytes (idle .ecb 0 plain)) = some #v[0x638293c3, 0x1bfc33f5, 0xc4eeacea, 0x4bc12816] ∧
    statusOf (exec .subBytes (ready .ecb plain)) = some 0x0a#32 := by decide +kernel
theorem test_invSubBytes :
    doutOf (exec .invSubBytes (idle .ecb 0 plain)) = some #v[0x52e39466, 0x86edd302, 0x97f962fe, 0x27c9997d] := by
  decide +kernel
theorem test_shiftRows :
    doutOf (exec .shiftRows (idle .ecb 0 counting)) = some #v[0x00050a0f, 0x04090e03, 0x080d0207, 0x0c01060b] := by
  decide +kernel
theorem test_invShiftRows :
    doutOf (exec .invShiftRows (idle .ecb 0 counting)) = some #v[0x000d0a07, 0x04010e0b, 0x0805020f, 0x0c090603] := by
  decide +kernel
theorem test_mixColumns :
    doutOf (exec .mixColumns (idle .ecb 0 #v[0xd4bf5d30, 0xe0b452ae, 0xb84111f1, 0x1e2798e5])) =
      some #v[0x046681e5, 0xe0cb199a, 0x48f8d37a, 0x2806264c] := by decide +kernel
theorem test_invMixColumns :
    doutOf (exec .invMixColumns (idle .ecb 0 #v[0xd4bf5d30, 0xe0b452ae, 0xb84111f1, 0x1e2798e5])) =
      some #v[0x265ca3df, 0x2994d0c5, 0x12c68944, 0x10351e7f] := by decide +kernel
theorem test_addRoundKey :
    doutOf (exec (.addRoundKey 1) (ready .ecb plain)) = some #v[0xd6bb56ce, 0x96fa148d, 0x523fd24a, 0x1a769801] ∧
    doutOf (exec (.addRoundKey 10) (ready .ecb plain)) = some #v[0x13003f4c, 0xa7c12c60, 0x7b9e0d30, 0x81f6de3a] := by
  decide +kernel
theorem test_addRoundKey_errors :
    statusOf (exec (.addRoundKey 11) (ready .ecb plain)) = some 0x5e#32 ∧
    statusOf (exec (.addRoundKey 15) (ready256 .ecb plain)) = some 0x5e#32 ∧
    statusOf (exec (.addRoundKey 11) State.reset) = some 0x36#32 := by decide +kernel

/-! ### The step, host accesses, interrupt and reset (95_test_vectors.md V8.2, V8.3, P4, P6) -/

/-- The word placed by `withFetchWord` is the next one performed, first after reset. -/
theorem test_withFetchWord_runs_the_word :
    doutOf (step (State.reset.withFetchWord 32 0x20)) = some #v[0x63636363, 0x63636363, 0x63636363, 0x63636363] ∧
    statusOf (step (State.reset.withFetchWord 32 0x110)) = some 0x16#32 := by decide +kernel
/-- An illegal word that is pending with KEY_VALID = 1. -/
theorem test_illegal_word_keeps_key_valid :
    statusOf (step (issued 0x80000001#32 (ready .ecb plain))) = some 0x1e#32 := by decide +kernel
/-- P4 outcome (a): the DIN write is dropped while SUB_BYTES is pending, which then completes on the old DIN. -/
theorem test_write_while_busy_is_dropped :
    let s := (windowWrite 0x30 4 0xffffffff#32 (issued 0x20#32 (ready .ecb #v[0, 0, 0, 0]))).2
    s.din = #v[0, 0, 0, 0] ∧ statusOf (step s) = some 0x4e#32 ∧
    doutOf (step s) = some #v[0x63636363, 0x63636363, 0x63636363, 0x63636363] := by decide +kernel
theorem test_register_reads :
    (windowRead 0x04 4 (ready .ecb plain)).1 = .data 0x0a#32 ∧ (windowRead 0x10 4 (ready .ecb plain)).1 = .data 0 ∧
    (windowRead 0x34 4 (ready .ecb plain)).1 = .data 0x44556677#32 ∧
    (windowRead 0x0C 4 (ready .ecb plain)).1 = .data 0 ∧ (windowRead 0xFC 4 (ready .ecb plain)).1 = .data 0 := by
  decide +kernel
theorem test_narrow_and_misaligned_accesses_are_bus_errors :
    windowRead 0x04 2 State.reset = (.busError, State.reset) ∧
    windowWrite 0x06 4 0xff#32 State.reset = (.busError, State.reset) := by decide +kernel
theorem test_ctrl_write_masks_reserved_bits :
    (windowRead 0x00 4 (windowWrite 0x00 4 0xffffffff#32 State.reset).2).1 = .data 0x37#32 := by decide +kernel
theorem test_key_write_clears_key_valid :
    let s := (windowWrite 0x2C 4 0x12345678#32 (ready .ecb plain)).2
    s.key[7] = 0x12345678#32 ∧ s.status.keyValid = false := by decide +kernel
theorem test_status_write_one_to_clear :
    let s := { State.reset with status := statusRaised .noKey Status.reset }
    statusWord (windowWrite 0x04 4 0x04#32 s).2.status = 0x02#32 ∧
    statusWord (windowWrite 0x04 4 0x02#32 s).2.status = 0x34#32 ∧
    statusWord (windowWrite 0x04 4 0x06#32 s).2.status = 0x00#32 := by decide +kernel
theorem test_cmd_write_sets_busy_and_clears_done :
    statusWord (windowWrite 0x08 4 0x10#32 (ready .ecb plain)).2.status = 0x09#32 ∧
    (windowWrite 0x08 4 0x10#32 (ready .ecb plain)).2.pend = 0x10#32 := by decide +kernel
theorem test_irq_levels :
    State.irq { ready .ecb plain with ctrl := ctrlOfWord 0x10#32 } = true ∧
    State.irq { ready .ecb plain with ctrl := ctrlOfWord 0x20#32 } = false ∧
    State.irq { raise .noKey State.reset with ctrl := ctrlOfWord 0x20#32 } = true ∧
    State.irq { ready .ecb plain with ctrl := ctrlOfWord 0x00#32 } = false := by decide +kernel
theorem test_reset_abandons_the_command :
    let s := releaseReset (assertReset (issued 0x10#32 (ready .ecb plain)))
    statusWord s.status = 0 ∧ s.dout = #v[0, 0, 0, 0] ∧ s.key = Vector.replicate 8 0 := by decide +kernel

/-! ### Streams (95_test_vectors.md W4, V7.2) -/

/-- `"Hello, AES engine!"`. -/
def hello : List Byte :=
  [0x48, 0x65, 0x6c, 0x6c, 0x6f, 0x2c, 0x20, 0x41, 0x45, 0x53, 0x20, 0x65, 0x6e, 0x67, 0x69, 0x6e, 0x65, 0x21]

/-- The bytes of some register words. -/
def bytesOf (ws : List Word) : List Byte := ws.flatMap wordBytes

/-- Its CBC ciphertext under the key of W1. -/
def helloCrypt : List Byte :=
  bytesOf [0xf80dfe78, 0x646fad2b, 0xb5aae002, 0xdf63ae33, 0xb701f46f, 0xe03c5243, 0x27f75f66, 0xa7b95196]

/-- The same with bit 0 of its first byte flipped (W7). -/
def helloFlipped : List Byte :=
  bytesOf [0xf90dfe78, 0x646fad2b, 0xb5aae002, 0xdf63ae33, 0xb701f46f, 0xe03c5243, 0x27f75f66, 0xa7b95196]

/-- The key of W1, as bytes. -/
def key16 : List Byte := bytesOf counting.toList

/-- The key of V5.4, as bytes. -/
def key32 : List Byte := bytesOf keyRegs256.toList

theorem test_cbc_stream :
    encryptStream .cbc key16 hello = some helloCrypt ∧
    decryptStream .cbc key16 helloCrypt = some (hello ++ List.replicate 14 0x0e#8) := by decide +kernel
theorem test_ecb_stream_256 :
    encryptStream .ecb key32 hello = some (bytesOf [0x6a43c977, 0x786f389c, 0xe44d4dbe, 0x693bf0f6, 0x88980a7f,
      0x0e62b633, 0xfe4c2edf, 0xe284817e]) := by decide +kernel
theorem test_cbc_bit_flip :
    decryptStream .cbc key16 helloFlipped = some (bytesOf [0x7e7265f6, 0x879098e9, 0x5c4e5918, 0x743324a5, 0x64210e0e,
      0x0e0e0e0e, 0x0e0e0e0e, 0x0e0e0e0e]) := by decide +kernel
theorem test_refused_streams :
    decryptStream .ecb key16 (List.replicate 17 0) = none ∧ encryptStream .ecb (List.replicate 24 0) hello = none := by
  decide +kernel

/-- 44_mode_layer.md R243: a ciphertext of 17 bytes is refused, from whatever state. -/
theorem test_driver_refuses_a_truncated_ciphertext (s : State) :
    decryptDriver (fun _ => 1) .cbc key16 (List.replicate 17 0) s = .refused ∧
    nextDecryptDriver (fun _ => 1) (List.replicate 17 0) s = .refused := ⟨rfl, rfl⟩
/-- 10_state.md R23 and 44_mode_layer.md R244: the KEYSIZE codes, those of the wrong lengths being rejected ones. -/
theorem test_keySizeCode :
    [16, 32, 24, 0, 17, 48].map keySizeCode = [0b00#32, 0b10#32, 0b01#32, 0b11#32, 0b11#32, 0b11#32] := by decide
/-- 44_mode_layer.md R246: the driver goes on only after a STATUS read with bit 2 clear. -/
theorem test_driver_reads_err :
    errReadClear [⟨.read 0x04 4, .data 0x0a#32⟩] = true ∧ errReadClear [⟨.read 0x04 4, .data 0x26#32⟩] = false := by
  decide

/-! ### Witnesses: what the hypotheses of each statement ask for, at the ends of each range -/

theorem test_witness_DecodeUndoesEncode :
    (Instr.encryptFinal 0).wf = true ∧ (Instr.encryptFinal 15).wf = true ∧ (Instr.addRoundKey 0).wf = true ∧
    (Instr.addRoundKey 15).wf = true ∧ decode 0x000f0026#32 = .ok (.addRoundKey 15) := by decide

theorem test_witness_EngineFollowsTheOpcodeMap :
    (pending (issued 0x00000f12#32 State.reset) 0x00000f12#32 ∧
      ∃ r ∈ opcodeMap, 0x00000f12#32 &&& r.mask = r.value) ∧
    pending (issued 0x00000027#32 State.reset) 0x00000027#32 ∧
      ∀ r ∈ opcodeMap, 0x00000027#32 &&& r.mask ≠ r.value := by
  exact ⟨⟨⟨rfl, rfl, rfl⟩, by decide⟩, ⟨rfl, rfl, rfl⟩, by decide⟩

theorem test_witness_IllegalWordsRaiseIllegalCmd :
    pending (issued 0x80000001#32 State.reset) 0x80000001#32 ∧ ∃ e, decode 0x80000001#32 = .error e :=
  ⟨⟨rfl, rfl, rfl⟩, .reservedBits, by decide⟩

theorem test_witness_EngineTurnRunsTheDecodedCommand :
    pending (issued 0x00000010#32 State.reset) 0x00000010#32 ∧ decode 0x00000010#32 = .ok .encrypt ∧
    (issued 0x00000010#32 State.reset).schedule = [] :=
  ⟨⟨rfl, rfl, rfl⟩, by decide, rfl⟩

theorem test_witness_PlacedWordRunsNext :
    0x000f0026 < 2 ^ 32 ∧ decode (BitVec.ofNat 32 0x000f0026) = .ok (.addRoundKey 15) := by decide

theorem test_witness_TurnsAreTakenInOrder :
    State.reset.status.busy = false ∧ State.reset.schedule = [] ∧
    ({ State.reset with rst := true, status := { Status.reset with busy := true } } : State).rst = true := by decide

theorem test_witness_AccessUnderRstHasNoEffect :
    (assertReset State.reset).rst = true ∧ 0xFC < 0x100 ∧ 0xFC % 4 = 0 ∧ (0 : Nat) < 0x100 := by decide

theorem test_witness_InadmissibleAccessIsABusError :
    State.reset.rst = false ∧ (0xFF < 0x100 ∧ 0xFF % 4 ≠ 0) ∧ (0xFC < 0x100 ∧ (2 : Nat) ≠ 4) ∧ 0xFC < 0x100 ∧ 0xFC % 4 = 0 := by decide

theorem test_witness_AddressMap :
    regAt 0x0C = .reserved ∧ regAt 0x10 = .key 0 ∧ regAt 0x2C = .key 7 ∧ regAt 0x30 = .din 0 ∧ regAt 0x3C = .din 3 ∧
    regAt 0x40 = .dout 0 ∧ regAt 0x4C = .dout 3 ∧ regAt 0x50 = .reserved ∧ regAt 0xFC = .reserved := by decide

/-- Idle and busy states with `rst` not asserted: the hypotheses of CtrlWriteAndRead, StatusReadsItsFields,
StatusWriteOneToClear, CmdWriteAndRead, KeyWriteAndRead, DinWriteAndRead and of NoKeyError's KEYn clause. -/
theorem test_witness_register_statements :
    State.reset.rst = false ∧ State.reset.status.busy = false ∧
    (issued 0x20#32 State.reset).rst = false ∧ (issued 0x20#32 State.reset).status.busy = true ∧
    ∃ t, exec .subBytes (issued 0x20#32 State.reset) = .next t :=
  ⟨rfl, rfl, rfl, rfl, _, rfl⟩

/-- The interrupt clauses of CtrlWriteAndRead. -/
theorem test_witness_CtrlWriteAndRead_interrupts :
    ∃ s : State, s.ctrl.ieDone = true ∧ s.status.done = true ∧ s.ctrl.ieErr = true ∧ s.status.err = true :=
  ⟨{ raise .noKey State.reset with ctrl := ctrlOfWord 0x30#32 }, by decide, rfl, by decide, rfl⟩

theorem test_witness_DoutReadAndWrite :
    State.reset.rst = false ∧ State.reset.status.busy = false ∧ (issued 0x20#32 State.reset).status.busy = true ∧
    ∃ t, step (issued 0x20#32 State.reset) = .next t ∧ t.dout ≠ (issued 0x20#32 State.reset).dout :=
  ⟨rfl, rfl, rfl, _, rfl, by decide +kernel⟩

theorem test_witness_ReservedOffsets :
    State.reset.rst = false ∧ ∀ off ∈ [0x0C, 0x50, 0xFC], off % 4 = 0 ∧ (off = 0x0C ∨ (0x50 ≤ off ∧ off ≤ 0xFC)) := by
  decide

theorem test_witness_BusyWritesAreDropped :
    (issued 0x20#32 State.reset).rst = false ∧ (issued 0x20#32 State.reset).status.busy = true ∧
    (∀ off ∈ [0x00, 0x08, 0x10, 0x3C], off % 4 = 0 ∧ (off = 0x00 ∨ off = 0x08 ∨ (0x10 ≤ off ∧ off ≤ 0x3C))) ∧
    (∀ off ∈ [0x04, 0x0C, 0x40, 0xFC], off < 0x100 ∧ off % 4 = 0 ∧ (off = 0x04 ∨ off = 0x0C ∨ 0x40 ≤ off)) ∧
    ∃ t, exec .subBytes (issued 0x20#32 State.reset) = .next t :=
  ⟨rfl, rfl, by decide, by decide, _, rfl⟩

/-- The addresses on both sides of the window (the lower one where `BASE` is not 0), and accesses under `rst`. -/
theorem test_witness_ReadsHaveNoSideEffect :
    (Config.base = 0 ∨ Config.base - 1 < Config.base) ∧ Config.base + 0x100 ≤ Config.base + 0x100 ∧
    (assertReset State.reset).rst = true ∧ (0xFF < 0x100 ∧ 0xFF % 4 ≠ 0) ∧ 0xFC < 0x100 ∧ 0xFC % 4 = 0 :=
  ⟨by omega, by omega, rfl, by decide, by decide, by decide⟩

theorem test_witness_PendingCommandKeepsItsOperands :
    (issued 0x20#32 State.reset).status.busy = true ∧ (issued 0x20#32 State.reset).status.done = false := by decide

theorem test_witness_KeyExpandCommand :
    (idle .ecb 0b00#2 plain).ctrl.keysize = 0b00#2 ∧ (idle .ecb 0b10#2 plain).ctrl.keysize = 0b10#2 ∧
    (idle .ecb 0b01#2 plain).ctrl.keysize = 0b01#2 ∧ (idle .ecb 0b11#2 plain).ctrl.keysize = 0b11#2 ∧
    (∀ w : Fin 8, w.val < 4 → (idle .ecb 0b00#2 plain).key[w] = keyRegs[w]) ∧
    (idle .ecb 0b00#2 plain).key.toList.take 4 = [0x00010203, 0x04050607, 0x08090a0b, 0x0c0d0e0f] ∧
    ∃ t u, exec .keyExpand (idle .ecb 0b00#2 plain) = .next t ∧ exec .keyExpand t = .next u :=
  ⟨rfl, rfl, rfl, rfl, by decide +kernel, rfl, _, _, rfl, rfl⟩

/-- The two clauses of ChainResetCommand about a later encryption. -/
theorem test_witness_ChainResetCommand :
    (∃ t u v, exec .chainReset (ready .cbc plain) = .next t ∧ exec .encrypt t = .next u ∧
      exec .encrypt { t with ctrl := { t.ctrl with mode := .ecb } } = .next v) ∧
    (idle .cbc 0b00#2 plain).ctrl.keysize = 0b00#2 ∧ (idle .cbc 0b00#2 plain).ctrl.mode = .cbc ∧
    (idle .cbc 0b00#2 plain).key.toList.take 4 = [0x00010203, 0x04050607, 0x08090a0b, 0x0c0d0e0f] ∧
    (idle .cbc 0b00#2 plain).din = plain ∧
    ∃ t u v, exec .keyExpand (idle .cbc 0b00#2 plain) = .next t ∧ exec .encrypt t = .next u ∧
      exec .chainReset u = .next v :=
  ⟨⟨_, _, _, rfl, rfl, rfl⟩, rfl, rfl, rfl, rfl, _, _, _, rfl, rfl, rfl⟩

/-- The states of EncryptCommand, DecryptCommand and EncryptFinalCommand: a valid key with 10 and with 14 rounds in both
modes, and none. -/
theorem test_witness_block_commands :
    (ready .ecb plain).status.keyValid = true ∧ (ready .ecb plain).nr = 10#4 ∧ (ready .ecb plain).ctrl.mode = .ecb ∧
    (ready256 .cbc plain).status.keyValid = true ∧ (ready256 .cbc plain).nr = 14#4 ∧
    (ready256 .cbc plain).ctrl.mode = .cbc ∧ State.reset.status.keyValid = false ∧ (0 : Nat) ≤ 15 ∧ 15 ≤ 15 :=
  ⟨rfl, rfl, rfl, rfl, rfl, rfl, rfl, by decide, by decide⟩

theorem test_witness_EncryptCommand :
    ((ready .cbc plain).cv = zeroMatrix ∧
      (∃ t, exec .encrypt { ready .cbc plain with ctrl := { (ready .cbc plain).ctrl with mode := .cbc } } = .next t) ∧
      ∃ u, exec .encrypt { ready .cbc plain with ctrl := { (ready .cbc plain).ctrl with mode := .ecb } } = .next u) ∧
    ((ready .cbc plain).ctrl.mode = .cbc ∧ (ready .cbc plain).status.keyValid = true ∧
      (∃ t, exec .encrypt (ready .cbc plain) = .next t) ∧
      ∃ u, exec .encrypt { ready .cbc plain with cv := load (blockOfWords crypt) } = .next u) ∧
    (idle .ecb 0b00#2 plain).ctrl.keysize = 0b00#2 ∧ (idle .ecb 0b00#2 plain).din = plain ∧
    (idle .ecb 0b00#2 plain).key.toList.take 4 = [0x00010203, 0x04050607, 0x08090a0b, 0x0c0d0e0f] ∧
    ∃ t, exec .keyExpand (idle .ecb 0b00#2 plain) = .next t :=
  ⟨⟨rfl, ⟨_, rfl⟩, _, rfl⟩, ⟨rfl, rfl, ⟨_, rfl⟩, _, rfl⟩, rfl, rfl, rfl, _, rfl⟩

theorem test_witness_DecryptCommand :
    (idle .ecb 0b00#2 crypt).ctrl.keysize = 0b00#2 ∧ (idle .ecb 0b00#2 crypt).ctrl.mode = .ecb ∧
    (idle .ecb 0b00#2 crypt).din = crypt ∧
    (idle .ecb 0b00#2 crypt).key.toList.take 4 = [0x00010203, 0x04050607, 0x08090a0b, 0x0c0d0e0f] ∧
    ∃ t, exec .keyExpand (idle .ecb 0b00#2 crypt) = .next t :=
  ⟨rfl, rfl, rfl, rfl, _, rfl⟩

/-- DIN `48656c6c 6fffffff ffffffff ffffffff` and `48656c6c 6f000000 ..` agree on their first 5 bytes (V7.1). -/
theorem test_witness_EncryptFinalCommand :
    (∀ p : Fin 16, p.val < 5 → (blockOfWords #v[0x48656c6c, 0x6fffffff, 0xffffffff, 0xffffffff])[p] =
      (dinBlock (ready .ecb #v[0x48656c6c, 0x6f000000, 0, 0]))[p]) ∧
    (∃ t, exec (.encryptFinal 5) (ready .ecb #v[0x48656c6c, 0x6f000000, 0, 0]) = .next t) ∧
    (∃ u, exec (.encryptFinal 5) { ready .ecb #v[0x48656c6c, 0x6f000000, 0, 0] with
      din := #v[0x48656c6c, 0x6fffffff, 0xffffffff, 0xffffffff] } = .next u) ∧
    (idle .ecb 0b00#2 #v[0x48656c6c, 0x6f000000, 0, 0]).din[0] = 0x48656c6c#32 ∧
    (idle .ecb 0b00#2 #v[0x48656c6c, 0x6f000000, 0, 0]).din[1].extractLsb' 24 8 = 0x6f#8 ∧
    ∃ t, exec .keyExpand (idle .ecb 0b00#2 #v[0x48656c6c, 0x6f000000, 0, 0]) = .next t :=
  ⟨by decide +kernel, ⟨_, rfl⟩, ⟨_, rfl⟩, rfl, rfl, _, rfl⟩

/-- The states of the single-transform statements: the example blocks, a block of constant rows, and a completion. -/
theorem test_witness_transform_commands :
    (idle .ecb 0 plain).din = plain ∧ (idle .ecb 0 counting).din = counting ∧
    (∀ w r : Fin 4, wordByte (Vector.replicate 4 0x01020304#32)[w] r.val =
      wordByte (Vector.replicate 4 0x01020304#32)[0] r.val) ∧
    (∃ t, exec .subBytes (idle .ecb 0 plain) = .next t) ∧ (∃ t, exec .shiftRows (idle .ecb 0 plain) = .next t) ∧
    (∃ t, exec .invShiftRows (idle .ecb 0 plain) = .next t) ∧ ∃ t, exec .mixColumns (idle .ecb 0 plain) = .next t :=
  ⟨rfl, rfl, by decide +kernel, ⟨_, rfl⟩, ⟨_, rfl⟩, ⟨_, rfl⟩, _, rfl⟩

theorem test_witness_AddRoundKeyCommand :
    (ready .ecb plain).status.keyValid = true ∧ (10 : Fin 15).val ≤ (ready .ecb plain).nr.toNat ∧
    (14 : Fin 15).val ≤ (ready256 .ecb plain).nr.toNat ∧ (ready .ecb plain).nr.toNat < 11 ∧
    (ready .ecb (Vector.replicate 4 0)).din = Vector.replicate 4 0 ∧
    load (dinBlock (ready .ecb #v[0x13111d7f, 0xe3944a17, 0xf307a78b, 0x4d2b30c5])) =
      (ready .ecb #v[0x13111d7f, 0xe3944a17, 0xf307a78b, 0x4d2b30c5]).rk[10] ∧
    State.reset.status.keyValid = false := by decide +kernel

theorem test_witness_NoKeyError :
    State.reset.status.keyValid = false ∧
    ∃ t, exec .keyExpand (idle .ecb 0b11#2 plain) = .next t :=
  ⟨rfl, _, rfl⟩

/-- Success and each of the three errors of a command. -/
theorem test_witness_CommandsSucceedOrRaiseOneError :
    (∃ t, exec .keyExpand (idle .ecb 0b00#2 plain) = .next t) ∧ (∃ t, exec .keyExpand (idle .ecb 0b01#2 plain) = .next t) ∧
    (∃ t, exec .encrypt State.reset = .next t) ∧ ∃ t, exec (.addRoundKey 11) (ready .ecb plain) = .next t :=
  ⟨⟨_, rfl⟩, ⟨_, rfl⟩, ⟨_, rfl⟩, _, rfl⟩

/-- The CV clause of CommandFrame, which InternalStateMovesOnlyByItsCommands shares: a CBC encryption moves CV. -/
theorem test_witness_CommandFrame :
    ∃ t, exec .encrypt (ready .cbc plain) = .next t ∧ t.cv ≠ (ready .cbc plain).cv :=
  ⟨_, rfl, by decide +kernel⟩

/-- KEY_VALID rises by KEY_EXPAND and falls by asserting `rst`. -/
theorem test_witness_KeyValidRule :
    (∃ t, step (issued 0x01#32 (idle .ecb 0b00#2 plain)) = .next t ∧
      (issued 0x01#32 (idle .ecb 0b00#2 plain)).status.keyValid = false ∧ t.status.keyValid = true) ∧
    (∃ t, step { ready .ecb plain with schedule := [.assertRst] } = .next t ∧
      (ready .ecb plain).status.keyValid = true ∧ t.status.keyValid = false) ∧
    (∃ t, exec .keyExpand (idle .ecb 0b10#2 plain) = .next t) ∧ ∃ t, exec (.encryptFinal 0) State.reset = .next t :=
  ⟨⟨_, rfl, rfl, rfl⟩, ⟨_, rfl, rfl, rfl⟩, ⟨_, rfl⟩, _, rfl⟩

/-- BUSY falls and DONE and ERR rise at a completion that raises an error. -/
theorem test_witness_FlagsMoveOnlyByTheirRules_completion :
    ∃ t, step (issued 0x10#32 State.reset) = .next t ∧ (issued 0x10#32 State.reset).status.busy = true ∧
      t.status.busy = false ∧ (issued 0x10#32 State.reset).status.done = false ∧ t.status.done = true ∧
      (issued 0x10#32 State.reset).status.err = false ∧ t.status.err = true ∧
      t.status.errcode ≠ (issued 0x10#32 State.reset).status.errcode :=
  ⟨_, rfl, rfl, rfl, rfl, rfl, rfl, rfl, by decide⟩

/-- DONE and ERR fall when `rst` is asserted. -/
theorem test_witness_FlagsMoveOnlyByTheirRules_reset :
    ∃ t, step { raise .noKey State.reset with schedule := [.assertRst] } = .next t ∧
      (raise .noKey State.reset).status.done = true ∧ t.status.done = false ∧
      (raise .noKey State.reset).status.err = true ∧ t.status.err = false :=
  ⟨_, rfl, rfl, rfl, rfl, rfl⟩

/-- BUSY rises at a CMD write. -/
theorem test_witness_FlagsMoveOnlyByTheirRules_cmd :
    ∃ t, step { State.reset with schedule := [wrTurn 0x08 0x10#32] } = .next t ∧ State.reset.status.busy = false ∧
      t.status.busy = true := by
  have h : hostWrites State.reset 0x08 0x10#32 (acceptCmd 0x10#32 State.reset) :=
    hostWrites_of_writeReg (by omega) (by omega) (fun _ => rfl)
  exact ⟨_, h [], rfl, rfl⟩

/-- DONE falls at a CMD write. -/
theorem test_witness_FlagsMoveOnlyByTheirRules_done :
    ∃ t, step { ready .ecb plain with schedule := [wrTurn 0x08 0x10#32] } = .next t ∧
      (ready .ecb plain).status.done = true ∧ t.status.done = false := by
  have h : hostWrites (ready .ecb plain) 0x08 0x10#32 (acceptCmd 0x10#32 (ready .ecb plain)) :=
    hostWrites_of_writeReg (by omega) (by omega) (fun _ => rfl)
  exact ⟨_, h [], rfl, rfl⟩

/-- DONE and ERR fall and ERRCODE changes at a write of ones to STATUS. -/
theorem test_witness_FlagsMoveOnlyByTheirRules_write_one_to_clear :
    ∃ t, step { raise .noKey State.reset with schedule := [wrTurn 0x04 0x06#32] } = .next t ∧
      (raise .noKey State.reset).status.done = true ∧ t.status.done = false ∧
      (raise .noKey State.reset).status.err = true ∧ t.status.err = false ∧
      t.status.errcode ≠ (raise .noKey State.reset).status.errcode := by
  have h : hostWrites (raise .noKey State.reset) 0x04 0x06#32 (writeStatus 0x06#32 (raise .noKey State.reset)) :=
    hostWrites_of_writeReg (by omega) (by omega) (fun _ => rfl)
  exact ⟨_, h [], rfl, by decide, rfl, by decide, by decide⟩

/-- ERR rises and ERRCODE changes at a DIN write dropped while BUSY. -/
theorem test_witness_FlagsMoveOnlyByTheirRules_dropped_write :
    ∃ t, step { issued 0x20#32 State.reset with schedule := [wrTurn 0x30 0x01#32] } = .next t ∧
      (issued 0x20#32 State.reset).status.err = false ∧ t.status.err = true ∧
      t.status.errcode ≠ (issued 0x20#32 State.reset).status.errcode := by
  have h : hostWrites (issued 0x20#32 State.reset) 0x30 0x01#32 (dropWrite (issued 0x20#32 State.reset)) :=
    hostWrites_of_writeReg (by omega) (by omega) (fun _ => rfl)
  exact ⟨_, h [], rfl, rfl, by decide⟩

theorem test_witness_InternalStateMovesOnlyByItsCommands :
    (∃ t, step (issued 0x01#32 (idle .ecb 0b00#2 plain)) = .next t ∧ t.nr ≠ (idle .ecb 0b00#2 plain).nr) ∧
    ∃ t, step (issued 0x10#32 (ready .cbc plain)) = .next t ∧ t.cv ≠ (ready .cbc plain).cv :=
  ⟨⟨_, rfl, by decide +kernel⟩, _, rfl, by decide +kernel⟩

/-- A state that has the invariant with KEY_VALID = 1 and a command pending: the hypotheses of InvariantIsKept and of
ReachableStepsNeverStop. -/
theorem test_witness_EngineInv :
    EngineInv (issued 0x10#32 (ready .cbc plain)) ∧ EngineInv (issued 0x10#32 (ready256 .ecb plain)) ∧
    ∃ t, step (issued 0x10#32 (ready .cbc plain)) = .next t :=
  ⟨⟨fun _ => rfl, by decide, by decide, fun _ => .inl ⟨rfl, by decide +kernel⟩, fun h => absurd h (by decide)⟩,
    ⟨fun _ => rfl, by decide, by decide, fun _ => .inr ⟨rfl, by decide +kernel⟩, fun h => absurd h (by decide)⟩, _, rfl⟩

/-- Both stops of StopsAreOutsideTheRoundEngineDomain. -/
theorem test_witness_StopsAreOutsideTheRoundEngineDomain :
    (∃ r, exec .encrypt { ready .ecb plain with nr := 5#4 } = .refused r) ∧
    ∃ r, exec (.addRoundKey 15) { ready .ecb plain with nr := 15#4 } = .fault r :=
  ⟨⟨_, rfl⟩, _, rfl⟩

theorem test_witness_UnspecifiedScheduleIsUnobservable :
    sameButSchedule (issued 0x01#32 (idle .ecb 0b00#2 plain))
      { issued 0x01#32 (idle .ecb 0b00#2 plain) with nr := 7, rk := Vector.replicate 15 (load (blockOfWords plain)) } ∧
    (issued 0x01#32 (idle .ecb 0b00#2 plain)).status.keyValid = false ∧
    ∃ s', step (issued 0x01#32 (idle .ecb 0b00#2 plain)) = .next s' ∧ s'.status.keyValid = true :=
  ⟨rfl, rfl, _, rfl, rfl⟩

theorem test_witness_field_statements :
    (∃ x : Byte, x ≠ 0) ∧ gmul 0x53 0xca = 1 ∧ (0x57#8).getLsbD 7 = false ∧ (0xae#8).getLsbD 7 = true :=
  ⟨⟨1, by decide⟩, by decide +kernel, by decide, by decide⟩

theorem test_witness_ScheduleInWordForm :
    key16.length = 16 * 1 ∧ key32.length = 16 * 2 ∧ ∃ t, 4 * 2 ≤ t ∧ t ≤ 4 * 14 + 3 ∧ t % 8 = 4 :=
  ⟨by decide +kernel, by decide +kernel, 12, by decide, by decide, by decide⟩

theorem test_witness_TransformCommandsComputeEncrypt :
    (ready .ecb plain).status.keyValid = true ∧ (ready .ecb plain).nr = 10#4 ∧ (ready256 .ecb plain).nr = 14#4 ∧
    (ready .ecb plain).ctrl.mode = .ecb ∧ ∃ t, exec .encrypt (ready .ecb plain) = .next t :=
  ⟨rfl, rfl, rfl, rfl, _, rfl⟩

/-- A stream of 18 bytes with its last two in a block, whose tail is `6521` (P2). -/
theorem test_witness_PaddingRule :
    ∀ p : Fin 16, p.val < hello.length % 16 →
      hello[hello.length - hello.length % 16 + p.val]? = some (blockOfWords #v[0x65210000, 0, 0, 0])[p] := by
  decide +kernel

theorem test_witness_StreamRoundTrip : key16.length = 16 ∧ key32.length = 32 := by decide +kernel

/-- W6: two plaintexts that share their first block, and their ciphertexts. -/
theorem test_witness_EcbBlockIndependence :
    let P := bytesOf plain.toList ++ [0x66, 0x69, 0x72, 0x73, 0x74]
    let P' := bytesOf plain.toList ++ [0x6f, 0x74, 0x68, 0x65, 0x72, 0x20, 0x74, 0x61, 0x69, 0x6c, 0x21, 0x21]
    16 * 1 ≤ P.length ∧ 16 * 1 ≤ P'.length ∧ P.take (16 * 1) = P'.take (16 * 1) ∧
    encryptStream .ecb key16 P = some (bytesOf (crypt.toList ++ [0xac40a392, 0x6d5a86cf, 0x7c605e9b, 0x5987e1e0])) ∧
    encryptStream .ecb key16 P' = some (bytesOf (crypt.toList ++ [0xaa2b6305, 0x8ccb0f70, 0x95fa0fc9, 0xaacc5cf7])) := by
  decide +kernel

/-- W7: the ciphertext of the greeting and the one with a bit of block 0 flipped. -/
theorem test_witness_CbcChainingSensitivity :
    helloCrypt.length = helloFlipped.length ∧ 16 * (0 + 2) ≤ helloCrypt.length ∧
    (∀ j, j / 16 ≠ 0 → helloCrypt[j]? = helloFlipped[j]?) ∧ blockAt helloCrypt 0 ≠ blockAt helloFlipped 0 ∧
    (∃ p, decryptStream .cbc key16 helloCrypt = some p) ∧ ∃ p', decryptStream .cbc key16 helloFlipped = some p' := by
  refine ⟨by decide +kernel, by decide +kernel, ?_, by decide +kernel, ⟨_, rfl⟩, _, rfl⟩
  intro j hj
  cases j with
  | zero => exact absurd rfl hj
  | succ j =>
    have h : helloCrypt.tail = helloFlipped.tail := by decide +kernel
    rw [← List.getElem?_tail, ← List.getElem?_tail, h]

/-- The same with the change in the last block, which has no block after it. -/
theorem test_witness_CbcChainingSensitivity_last_block :
    let C' := helloCrypt.take 31 ++ [0x97]
    helloCrypt.length = C'.length ∧ 16 * (1 + 1) ≤ helloCrypt.length ∧
    (∀ j, j / 16 ≠ 1 → helloCrypt[j]? = C'[j]?) ∧ blockAt helloCrypt 1 ≠ blockAt C' 1 ∧
    (∃ p, decryptStream .cbc key16 helloCrypt = some p) ∧ ∃ p', decryptStream .cbc key16 C' = some p' := by
  refine ⟨by decide +kernel, by decide +kernel, ?_, by decide +kernel, ⟨_, rfl⟩, _, rfl⟩
  intro j hj
  have hl : helloCrypt.length = 32 := by decide +kernel
  by_cases h : j < 31
  · rw [List.getElem?_append_left (by simp [hl, h]), List.getElem?_take_of_lt h]
  · rw [List.getElem?_eq_none (by omega), List.getElem?_eq_none (by simp [hl]; omega)]

/-- Idle under an expanded key, with a DOUT read already in the bus log, as after a first stream. -/
def afterStream (s : State) : State :=
  { s with bus := [⟨.read (Config.base + 0x40) 4, .data 0x69c4e0d8#32⟩] }

/-- From reset, and after a first stream under the same key, with 10 and with 14 rounds. -/
theorem test_witness_DriverComputesTheStream :
    (State.reset.rst = false ∧ State.reset.status.busy = false ∧ State.reset.status.err = false) ∧
    ((afterStream (ready .cbc plain)).rst = false ∧ (afterStream (ready .cbc plain)).status.busy = false ∧
      (afterStream (ready .cbc plain)).status.err = false ∧ (afterStream (ready .cbc plain)).status.keyValid = true ∧
      (afterStream (ready .cbc plain)).ctrl.mode = .cbc ∧ expandedKey key16 (afterStream (ready .cbc plain))) ∧
    ((afterStream (ready256 .ecb plain)).status.keyValid = true ∧
      (afterStream (ready256 .ecb plain)).ctrl.mode = .ecb ∧ expandedKey key32 (afterStream (ready256 .ecb plain))) ∧
    helloCrypt.length % 16 = 0 :=
  ⟨⟨rfl, rfl, rfl⟩, ⟨rfl, rfl, rfl, rfl, rfl, 1, 10, by decide +kernel, rfl, by decide +kernel⟩,
    ⟨rfl, rfl, 2, 14, by decide +kernel, rfl, by decide +kernel⟩, by decide +kernel⟩

/-- A truncated ciphertext, a 24-byte key, and an error left in STATUS. -/
theorem test_witness_DriverComputesTheStream_refusals :
    (List.replicate 17 (0 : Byte)).length % 16 ≠ 0 ∧
    ((List.replicate 24 (0 : Byte)).length ≠ 16 ∧ (List.replicate 24 (0 : Byte)).length ≠ 32) ∧
    (raise .noKey State.reset).rst = false ∧ (raise .noKey State.reset).status.busy = false ∧
    (raise .noKey State.reset).status.err = true := by decide +kernel

end Sys2Proof.Tests
end

section
/-! PROOFS. The statements of spec/10_state.md: register accesses (R23 to R39), reset (R48), `irq` (R44) and KEY_VALID (R34).
First the facts they share: the bits of the register words, where a register stands in the window, what a host access at
such an offset does, and what a command does to DOUT and KEY_VALID. -/

namespace Sys2Proof.Machine

/-! ### The bits of CTRL and STATUS -/

@[simp] theorem getElem_bitAt (i j : Nat) (b : Bool) (hj : j < 32) : (bitAt i b)[j] = (decide (i = j) && b) := by
  rcases Nat.lt_trichotomy i j with h | rfl | h
  · have hji : j - i ≠ 0 := by omega
    simp [bitAt, BitVec.getElem_shiftLeft, BitVec.getLsbD_ofBool, hji, h.ne]
  · simp [bitAt, BitVec.getElem_shiftLeft]
  · simp [bitAt, BitVec.getElem_shiftLeft, h, h.ne']

/-- `statusWord` puts DONE at bit 1 (R28). -/
theorem statusWord_bit_done (st : Status) : (statusWord st).getLsbD 1 = st.done := by
  simp [statusWord]

/-- `statusWord` puts ERR at bit 2 (R28). -/
theorem statusWord_bit_err (st : Status) : (statusWord st).getLsbD 2 = st.err := by
  simp [statusWord]

theorem modeBit_eq_true_iff (m : Mode) : modeBit m = true ↔ m = .cbc := by
  cases m <;> simp [modeBit]

theorem ctrlWord_bit_mode (c : Ctrl) : (ctrlWord c).getLsbD 0 = modeBit c.mode := by
  simp [ctrlWord]

theorem ctrlWord_keysize (c : Ctrl) : (ctrlWord c).extractLsb' 1 2 = c.keysize := by
  ext i hi
  interval_cases i <;> simp [ctrlWord]

theorem ctrlWord_bit_ieDone (c : Ctrl) : (ctrlWord c).getLsbD 4 = c.ieDone := by
  simp [ctrlWord]

theorem ctrlWord_bit_ieErr (c : Ctrl) : (ctrlWord c).getLsbD 5 = c.ieErr := by
  simp [ctrlWord]

theorem ctrlWord_bit_three (c : Ctrl) : (ctrlWord c).getLsbD 3 = false := by
  simp [ctrlWord]

theorem ctrlWord_bits_above (c : Ctrl) : (ctrlWord c).extractLsb' 6 26 = 0 := by
  ext i hi
  interval_cases i <;> simp [ctrlWord]

/-- The stored fields of a CTRL write read as `v & 0x37` (R23). -/
theorem ctrlWord_ctrlOfWord (v : Word) : ctrlWord (ctrlOfWord v) = v &&& 0x00000037#32 := by
  ext i hi
  interval_cases i <;> simp [ctrlWord, ctrlOfWord]

/-! ### Where a register stands and what a host access there does -/

/-- The register `r` is reached at the aligned offset `off` of the window (R20). -/
def standsAt (r : Reg) (off : Nat) : Prop := off < 0x100 ∧ off % 4 = 0 ∧ regAt off = r

theorem ctrl_standsAt : standsAt .ctrl 0x00 := by simp [standsAt, regAt]

theorem status_standsAt : standsAt .status 0x04 := by simp [standsAt, regAt]

theorem cmd_standsAt : standsAt .cmd 0x08 := by simp [standsAt, regAt]

theorem key_standsAt (w : Fin 8) : standsAt (.key w) (0x10 + 4 * w.val) := by
  fin_cases w <;> exact ⟨by decide, by decide, rfl⟩

theorem din_standsAt (w : Fin 4) : standsAt (.din w) (0x30 + 4 * w.val) := by
  fin_cases w <;> exact ⟨by decide, by decide, rfl⟩

theorem dout_standsAt (w : Fin 4) : standsAt (.dout w) (0x40 + 4 * w.val) := by
  fin_cases w <;> exact ⟨by decide, by decide, rfl⟩

/-- A register write neither reads nor moves the schedule and the bus log. -/
theorem writeReg_withSchedule (r : Reg) (v : Word) (s : State) (ts : List Turn) :
    writeReg r v { s with schedule := ts } = { writeReg r v s with schedule := ts, bus := s.bus } := by
  cases r with
  | status | dout | reserved => rfl
  | ctrl | cmd | key | din => cases hb : s.status.busy <;> simp only [writeReg, unlessBusy, hb] <;> rfl

/-- A register read neither reads nor moves the schedule and the bus log. -/
theorem readReg_withSchedule (r : Reg) (s : State) (ts : List Turn) :
    readReg r { s with schedule := ts } =
      ((readReg r s).1, { (readReg r s).2 with schedule := ts, bus := s.bus }) := by
  cases r with
  | ctrl | status | cmd | key | din | reserved => rfl
  | dout => cases hb : s.status.busy <;> simp only [readReg, hb] <;> rfl

/-- A host write where `r` stands leaves what a write of `r` leaves. -/
theorem hostWrites_writeReg {r : Reg} {off : Nat} {s : State} (h : standsAt r off) (hr : s.rst = false) (v : Word) :
    hostWrites s off v (writeReg r v s) := by
  obtain ⟨ho, h4, rfl⟩ := h
  exact hostWrites_of_writeReg ho h4 fun rest => (if_neg (by simp [hr])).trans (writeReg_withSchedule _ v s rest)

/-- A host read where `r` stands answers what a read of `r` answers. -/
theorem hostReads_readReg {r : Reg} {off : Nat} {s : State} (h : standsAt r off) (hr : s.rst = false) :
    hostReads s off (readReg r s).1 (readReg r s).2 := by
  obtain ⟨ho, h4, rfl⟩ := h
  exact hostReads_of_readReg ho h4 fun rest => (if_neg (by simp [hr])).trans (readReg_withSchedule _ s rest)

/-- A write of a register that is guarded by BUSY is accepted while BUSY is 0. -/
theorem hostWrites_accepted {r : Reg} {off : Nat} {s : State} {v : Word} (accept : State → State) (h : standsAt r off)
    (hw : writeReg r v s = unlessBusy accept s) (hr : s.rst = false) (hb : s.status.busy = false) :
    hostWrites s off v (accept s) := by
  have hs := hostWrites_writeReg h hr v
  rwa [hw, unlessBusy_of_idle accept hb] at hs

/-- A write of a register that is guarded by BUSY is dropped with E_BUSY while BUSY is 1 (60_exceptions.md R278). -/
theorem hostWrites_dropped {r : Reg} {off : Nat} {s : State} {v : Word} (accept : State → State) (h : standsAt r off)
    (hw : writeReg r v s = unlessBusy accept s) (hr : s.rst = false) (hb : s.status.busy = true) :
    hostWrites s off v { s with status := { s.status with err := true, errcode := 4 } } := by
  have hs := hostWrites_writeReg h hr v
  rwa [hw, unlessBusy_of_busy accept hb] at hs

/-! ### The bytes of the key and data registers -/

/-- Byte `4w + i` of a sequence of register words is byte `i` of word `w` (20_memory.md R60). -/
theorem getElem?_flatMap_wordBytes (ws : List Word) (w : Nat) (i : Fin 4) :
    (ws.flatMap wordBytes)[4 * w + i.val]? = ws[w]?.map fun x => wordByte x i.val := by
  induction ws generalizing w with
  | nil => simp
  | cons x xs ih =>
    cases w with
    | zero => fin_cases i <;> simp [wordBytes]
    | succ w =>
      have hidx : 4 * (w + 1) + i.val = 4 * w + i.val + 4 := by omega
      simpa [wordBytes, hidx] using ih w

theorem getElem?_keyBytes (key : Vector Word 8) (w : Fin 8) (i : Fin 4) :
    (keyBytes key)[4 * w.val + i.val]? = some (wordByte key[w] i.val) := by
  simp [keyBytes, getElem?_flatMap_wordBytes]

theorem getElem_dinBlock (s : State) (w i : Fin 4) :
    (dinBlock s)[4 * w.val + i.val] = wordByte s.din[w] i.val := by
  have hw : (4 * w.val + i.val) / 4 = w.val := by omega
  have hi : (4 * w.val + i.val) % 4 = i.val := by omega
  simp [dinBlock, hw, hi]

/-! ### What a command does to DIN, DOUT and KEY_VALID -/

theorem decode_eq_ok {w : Word} {i : Instr} (h : decode w = .ok i) :
    ∃ r ∈ opcodeMap, w &&& r.mask = r.value ∧ r.build w = i := by
  unfold decode at h
  split at h
  · rename_i r hr
    exact ⟨r, List.mem_of_find?_eq_some hr, by simpa [rowMatches] using List.find?_some hr, by simpa using h⟩
  · cases h

/-- The KEY_EXPAND row of the opcode map has one word (30_encoding.md R94). -/
theorem decode_eq_keyExpand_iff (w : Word) : decode w = .ok .keyExpand ↔ w = 0x00000001#32 := by
  constructor
  · intro h
    obtain ⟨r, hr, hm, hb⟩ := decode_eq_ok h
    simp only [opcodeMap, List.cons_append, List.nil_append, List.mem_cons, List.not_mem_nil, or_false] at hr
    rcases hr with rfl | hr
    · exact BitVec.and_allOnes.symm.trans hm
    · rcases hr with rfl | rfl | rfl | rfl | rfl | rfl | rfl | rfl | rfl | rfl | rfl <;> cases hb
  · rintro rfl
    decide

/-- The two KEYSIZE codes KEY_EXPAND rejects (R25). -/
theorem keySizeParams_eq_none_iff (c : BitVec 2) : keySizeParams c = none ↔ c = 0b01#2 ∨ c = 0b11#2 := by
  revert c
  decide

/-- The two KEYSIZE codes KEY_EXPAND accepts (R25). -/
theorem keySizeParams_isSome_iff (c : BitVec 2) : (keySizeParams c).isSome = true ↔ c = 0b00#2 ∨ c = 0b10#2 := by
  revert c
  decide

/-- `i` is one of the four commands that need a valid schedule (60_exceptions.md R277). -/
def needsKey (i : Instr) : Prop :=
  i = .encrypt ∨ i = .decrypt ∨ (∃ n, i = .encryptFinal n) ∨ ∃ n, i = .addRoundKey n

/-- Without a valid schedule the commands that need one raise E_NO_KEY. -/
theorem exec_of_noKey {i : Instr} {s : State} (hi : needsKey i) (hk : s.status.keyValid = false) :
    exec i s = .next (raise .noKey s) := by
  rcases hi with rfl | rfl | ⟨n, rfl⟩ | ⟨n, rfl⟩ <;>
    simp only [exec, execEncrypt, execDecrypt, execEncryptFinal, execAddRoundKey, requireKey_of_invalid _ hk]

/-- ADD_ROUND_KEY of an index above NR raises E_RKIDX (41_state_transforms.md R162). -/
theorem exec_addRoundKey_of_gt {n : Nat} {s : State} (hk : s.status.keyValid = true) (hn : s.nr.toNat < n) :
    exec (.addRoundKey n) s = .next (raise .rkIdx s) := by
  rw [show exec (.addRoundKey n) s = execAddRoundKey n s from rfl, execAddRoundKey, requireKey_of_valid _ hk, if_pos hn]

theorem exec_keyExpand_of_some {s : State} {nb nr : Nat} (h : keySizeParams s.ctrl.keysize = some (nb, nr)) :
    exec .keyExpand s = .next (expandKey nb nr s) := by
  simp [exec, execKeyExpand, h]

theorem exec_keyExpand_of_none {s : State} (h : keySizeParams s.ctrl.keysize = none) :
    exec .keyExpand s = .next (raise .keySize s) := by
  simp [exec, execKeyExpand, h]

/-- No command writes DIN (R38). -/
theorem exec_din {i : Instr} {s t : State} (h : exec i s = .next t) : t.din = s.din := by
  rcases exec_cases h with ⟨-, -, rfl⟩ | ⟨-, rfl⟩ | ⟨-, -, rfl⟩ | ⟨-, _, _, -, rfl⟩ | ⟨-, rfl⟩ | ⟨-, -, _, rfl⟩ |
    ⟨-, -, _, _, rfl⟩ <;> simp [expandKey]

/-- A command that moves DOUT is none of those that have no output, and ends with `complete()` (R39). -/
theorem exec_dout_ne {i : Instr} {s t : State} (h : exec i s = .next t) (hd : t.dout ≠ s.dout) :
    i ≠ .keyExpand ∧ i ≠ .chainReset ∧ t.status = statusCompleted s.status := by
  rcases exec_cases h with ⟨-, -, rfl⟩ | ⟨-, rfl⟩ | ⟨-, -, rfl⟩ | ⟨-, _, _, -, rfl⟩ | ⟨-, rfl⟩ | ⟨hk, hc, _, rfl⟩ |
    ⟨-, hi, _, _, rfl⟩
  · exact absurd rfl hd
  · exact absurd rfl hd
  · exact absurd rfl hd
  · exact absurd (by simp [expandKey]) hd
  · exact absurd rfl hd
  · exact ⟨hk, hc, rfl⟩
  · rcases hi with rfl | rfl | ⟨n, rfl⟩ <;> exact ⟨by simp, by simp, rfl⟩

/-- A command that moves DOUT had the key it needs. -/
theorem keyValid_of_exec_dout_ne {i : Instr} {s t : State} (h : exec i s = .next t) (hd : t.dout ≠ s.dout)
    (hi : needsKey i) : s.status.keyValid = true := by
  by_contra hk
  rw [exec_of_noKey hi (by simpa using hk)] at h
  cases h
  exact hd rfl

/-- An ADD_ROUND_KEY that moves DOUT had an index up to NR. -/
theorem le_nr_of_exec_dout_ne {n : Nat} {s t : State} (h : exec (.addRoundKey n) s = .next t)
    (hd : t.dout ≠ s.dout) : n ≤ s.nr.toNat := by
  by_contra hn
  have hk := keyValid_of_exec_dout_ne h hd (.inr (.inr (.inr ⟨n, rfl⟩)))
  rw [exec_addRoundKey_of_gt hk (by omega)] at h
  cases h
  exact hd rfl

/-- KEY_VALID after a command: KEY_EXPAND sets it by whether the key size is legal, no other command moves it (R34). -/
theorem exec_keyValid {i : Instr} {s t : State} (h : exec i s = .next t) :
    (i = .keyExpand ∧ t.status.keyValid = (keySizeParams s.ctrl.keysize).isSome) ∨
    (i ≠ .keyExpand ∧ t.status.keyValid = s.status.keyValid) := by
  by_cases hi : i = .keyExpand
  · subst hi
    refine .inl ⟨rfl, ?_⟩
    cases hp : keySizeParams s.ctrl.keysize with
    | none =>
      rw [exec_keyExpand_of_none hp] at h
      cases h
      rfl
    | some p =>
      rw [exec_keyExpand_of_some hp] at h
      cases h
      rfl
  · refine .inr ⟨hi, ?_⟩
    rcases exec_cases h with ⟨hx, -⟩ | ⟨-, rfl⟩ | ⟨-, -, rfl⟩ | ⟨hx, -⟩ | ⟨-, rfl⟩ | ⟨-, -, _, rfl⟩ |
      ⟨-, -, _, _, rfl⟩
    · exact absurd hx hi
    · rfl
    · rfl
    · exact absurd hx hi
    · rfl
    · rfl
    · rfl

/-! ### What one step does to DOUT and KEY_VALID -/

/-- No host access writes DOUT (R39). -/
@[simp] theorem hostAccess_dout (a : Access) (s : State) : (hostAccess a s).dout = s.dout := by
  rcases answerAccess_cases a s with h | h | ⟨-, addr, v, -, -, -, h⟩
  · simp [hostAccess, h]
  · simp [hostAccess, h]
  · rcases writeReg_cases (regAt (offsetOf addr)) v s with ⟨hw, -⟩ | ⟨-, hw⟩ | ⟨-, hw, -⟩ | ⟨-, ⟨-, hw⟩ | ⟨-, hw⟩ |
      ⟨_, -, hw⟩ | ⟨_, -, hw⟩⟩ <;> simp [hostAccess, h, hw]

/-- KEY_VALID after a register write: only an accepted KEYn write moves it, to 0 (R34). -/
theorem writeReg_keyValid (r : Reg) (v : Word) (s : State) :
    (writeReg r v s).status.keyValid = s.status.keyValid ∨
    (s.status.busy = false ∧ (∃ w, r = .key w) ∧ (writeReg r v s).status.keyValid = false) := by
  rcases writeReg_cases r v s with ⟨h, -⟩ | ⟨-, h⟩ | ⟨-, h, -⟩ | ⟨hb, ⟨-, h⟩ | ⟨-, h⟩ | ⟨w, hw, h⟩ | ⟨_, -, h⟩⟩
  · exact .inl (by rw [h])
  · exact .inl (by rw [h]; rfl)
  · exact .inl (by rw [h]; rfl)
  · exact .inl (by rw [h]; rfl)
  · exact .inl (by rw [h]; rfl)
  · exact .inr ⟨hb, ⟨w, hw⟩, by rw [h]; rfl⟩
  · exact .inl (by rw [h]; rfl)

/-- KEY_VALID after a host access: only an accepted KEYn write moves it, to 0 (R34). -/
theorem hostAccess_keyValid (a : Access) (s : State) :
    (hostAccess a s).status.keyValid = s.status.keyValid ∨
    (s.status.busy = false ∧ s.rst = false ∧ ∃ addr v w, a = .write addr 4 v ∧ inWindow addr = true ∧
      offsetOf addr % 4 = 0 ∧ regAt (offsetOf addr) = .key w ∧ (hostAccess a s).status.keyValid = false) := by
  rcases answerAccess_cases a s with h | h | ⟨hr, addr, v, ha, hin, h4, h⟩
  · exact .inl (by simp [hostAccess, h])
  · exact .inl (by simp [hostAccess, h])
  · simp only [hostAccess, h, logTransaction_status]
    rcases writeReg_keyValid (regAt (offsetOf addr)) v s with hk | ⟨hb, ⟨w, hw⟩, hk⟩
    · exact .inl hk
    · exact .inr ⟨hb, hr, addr, v, w, ha, hin, h4, hw, hk⟩

/-- An admitted write inside the window is a write of the register at its offset. -/
theorem hostAccess_write {s : State} {addr : Nat} (v : Word) (hin : inWindow addr = true) (h4 : offsetOf addr % 4 = 0)
    (hr : s.rst = false) :
    hostAccess (.write addr 4 v) s =
      logTransaction (.write addr 4 v) .written (writeReg (regAt (offsetOf addr)) v s) := by
  simp [hostAccess, answerAccess, windowWrite, admitted, hin, h4, hr]

/-- An accepted KEYn write as the next turn clears KEY_VALID (R37). -/
theorem step_keyWrite_keyValid {s t : State} {w : Fin 8} {v : Word} (h : step s = .next t)
    (hb : s.status.busy = false) (hn : writeNext s (.key w) v) : t.status.keyValid = false := by
  obtain ⟨hr, addr, rest, hs, hin, h4, hreg⟩ := hn
  have hw : writeReg (.key w) v s = storeKey w v s := unlessBusy_of_idle _ hb
  simp only [step, hs] at h
  cases h
  rw [hostAccess_withSchedule, hostAccess_write v hin h4 hr, hreg, hw]
  rfl

/-- Asserting `rst` clears KEY_VALID (R48). -/
theorem step_assert_keyValid {s t : State} (h : step s = .next t) (hn : assertNext s) : t.status.keyValid = false := by
  obtain ⟨rest, hs⟩ := hn
  simp only [step, hs] at h
  cases h
  rfl

/-- The engine's turn with a legal word pending performs its command. -/
theorem engineTurn_of_pending {s : State} {w : Word} {i : Instr} (hp : pending s w) (hd : decode w = .ok i) :
    engineTurn s = exec i s := by
  simp [engineTurn, pendingWord_of_pending hp, hd]

/-- The engine's step is its turn with the schedule moved on. -/
theorem step_of_engineNext {s : State} (hn : engineNext s) :
    ∃ rest, step s = engineTurn { s with schedule := rest } := by
  rcases hn with hs | ⟨rest, hs⟩
  · refine ⟨s.schedule, ?_⟩
    change step s = engineTurn s
    simp [step, hs]
  · exact ⟨rest, by simp [step, hs]⟩

/-- The engine's step with KEY_EXPAND pending sets KEY_VALID by whether the key size is legal (42_key_schedule.md R186). -/
theorem step_keyExpand_keyValid {s t : State} (h : step s = .next t) (hn : engineNext s)
    (hp : pending s 0x00000001#32) : t.status.keyValid = (keySizeParams s.ctrl.keysize).isSome := by
  obtain ⟨rest, hs⟩ := step_of_engineNext hn
  rw [hs, engineTurn_of_pending (s := { s with schedule := rest }) hp ((decode_eq_keyExpand_iff _).mpr rfl)] at h
  rcases exec_keyValid h with ⟨-, hk⟩ | ⟨hi, -⟩
  · exact hk
  · exact absurd rfl hi

/-- KEY_VALID after any step: where it moves, the step was one of the moves R34 lists. -/
theorem step_keyValid {s t : State} (h : step s = .next t) :
    t.status.keyValid = s.status.keyValid ∨
    (engineNext s ∧ pending s 0x00000001#32) ∨
    (t.status.keyValid = false ∧ (assertNext s ∨ (s.status.busy = false ∧ ∃ w v, writeNext s (.key w) v))) := by
  obtain ⟨rest, -, ⟨hn, he⟩ | ⟨a, hs, rfl⟩ | ⟨hn, rfl⟩ | ⟨-, rfl⟩⟩ := step_cases h
  · rcases engineTurn_cases he with ⟨-, rfl⟩ | ⟨hp, i, hi, hx⟩ | ⟨-, -, rfl⟩
    · exact .inl rfl
    · rcases exec_keyValid hx with ⟨rfl, -⟩ | ⟨-, hk⟩
      · exact .inr (.inl ⟨hn, (decode_eq_keyExpand_iff _).mp hi ▸ hp⟩)
      · exact .inl hk
    · exact .inl rfl
  · rcases hostAccess_keyValid a { s with schedule := rest } with hk | ⟨hb, hr, addr, v, w, rfl, hin, h4, hreg, hk⟩
    · exact .inl hk
    · exact .inr (.inr ⟨hk, .inr ⟨hb, w, v, hr, addr, rest, hs, hin, h4, hreg⟩⟩)
  · exact .inr (.inr ⟨rfl, .inl hn⟩)
  · exact .inl rfl

/-- A step that moves DOUT asserts `rst` or completes a command that moves it (R39). -/
theorem step_dout_ne {s t : State} (h : step s = .next t) (hd : t.dout ≠ s.dout) :
    assertNext s ∨ (engineNext s ∧ pending s s.pend ∧ ∃ rest i, decode s.pend = .ok i ∧
      exec i { s with schedule := rest } = .next t) := by
  obtain ⟨rest, -, ⟨hn, he⟩ | ⟨a, -, rfl⟩ | ⟨hn, -⟩ | ⟨-, rfl⟩⟩ := step_cases h
  · rcases engineTurn_cases he with ⟨-, rfl⟩ | ⟨hp, i, hi, hx⟩ | ⟨-, -, rfl⟩
    · exact absurd rfl hd
    · exact .inr ⟨hn, hp, rest, i, hi, hx⟩
    · exact absurd rfl hd
  · exact absurd (hostAccess_dout a _) hd
  · exact .inl hn
  · exact absurd rfl hd

/-! ### The statements -/

/-- Settles O13: the two lemmas on a BUSY-guarded write, the read of CTRL, and the bits of its word. -/
theorem ctrlWriteAndRead : Obligations.CtrlWriteAndRead := by
  refine ⟨fun s v hr hb => ⟨storeCtrl v s, ?_, rfl, ?_⟩, fun s v hr hb => ?_, fun s hr => ?_, fun c => ?_, by decide,
    fun s he hd => ?_, fun s he hd => ?_, by decide⟩
  · exact hostWrites_accepted (storeCtrl v) ctrl_standsAt rfl hr hb
  · rw [← ctrlWord_ctrlOfWord]
    exact hostReads_readReg (s := storeCtrl v s) ctrl_standsAt hr
  · exact hostWrites_dropped (storeCtrl v) ctrl_standsAt rfl hr hb
  · exact hostReads_readReg ctrl_standsAt hr
  · exact ⟨by rw [ctrlWord_bit_mode, modeBit_eq_true_iff], ctrlWord_keysize c, ctrlWord_bit_ieDone c,
      ctrlWord_bit_ieErr c, ctrlWord_bit_three c, ctrlWord_bits_above c⟩
  · simp [State.irq, he, hd]
  · simp [State.irq, he, hd]

/-- Settles O15: STATUS is written whatever BUSY is. -/
theorem statusWriteOneToClear : Obligations.StatusWriteOneToClear := fun _ v hr =>
  ⟨hostWrites_writeReg status_standsAt hr v, hostReads_readReg status_standsAt hr⟩

/-- Settles O16: CMD is guarded by BUSY, and its read is the constant 0. -/
theorem cmdWriteAndRead : Obligations.CmdWriteAndRead := fun _ v hr =>
  ⟨hostWrites_accepted (acceptCmd v) cmd_standsAt rfl hr, hostWrites_dropped (acceptCmd v) cmd_standsAt rfl hr,
    hostReads_readReg cmd_standsAt hr⟩

/-- Settles O17: KEYw is guarded by BUSY, its read is the constant 0, and its bytes are those `keyBytes` lists. -/
theorem keyWriteAndRead : Obligations.KeyWriteAndRead := by
  refine ⟨fun s w v hr => ⟨?_, ?_, ?_⟩, getElem?_keyBytes, fun w => by simp [State.reset]⟩
  · exact hostWrites_accepted (storeKey w v) (key_standsAt w) rfl hr
  · exact hostWrites_dropped (storeKey w v) (key_standsAt w) rfl hr
  · exact hostReads_readReg (key_standsAt w) hr

/-- Settles O18: a stored DIN word reads back because the register vector does. -/
theorem dinWriteAndRead : Obligations.DinWriteAndRead := by
  refine ⟨fun s w v hr => ⟨fun hb => ⟨?_, ?_⟩, ?_, ?_⟩, getElem_dinBlock, fun i s t => exec_din,
    fun w => by simp [State.reset]⟩
  · exact hostWrites_accepted (storeDin w v) (din_standsAt w) rfl hr hb
  · have hread := hostReads_readReg (s := storeDin w v s) (din_standsAt w) hr
    rwa [show (readReg (.din w) (storeDin w v s)).1 = v by simp [readReg]] at hread
  · exact hostWrites_dropped (storeDin w v) (din_standsAt w) rfl hr
  · exact hostReads_readReg (din_standsAt w) hr

/-- Settles O19: a step that moves DOUT completes a command that moves it, and such a command raised no error. -/
theorem doutReadAndWrite : Obligations.DoutReadAndWrite := by
  refine ⟨fun o s w i => wordByte_wordsOfBlock o w i, fun s w v hr => ⟨?_, fun hb => ?_, fun hb => ?_⟩,
    fun s t h hd => ?_, raise_dout, fun w => by simp [State.reset]⟩
  · exact hostWrites_writeReg (dout_standsAt w) hr v
  · simpa [readReg, hb] using hostReads_readReg (dout_standsAt w) hr
  · simpa [readReg, hb, anyWord, drawOne] using hostReads_readReg (dout_standsAt w) hr
  · rcases step_dout_ne h hd with hn | ⟨hn, hp, rest, i, hi, hx⟩
    · exact .inl hn
    · obtain ⟨hk, hc, hst⟩ := exec_dout_ne hx hd
      refine .inr ⟨hn, i, hp, hi, hk, hc, fun hneed => ?_, ?_, hst⟩
      · exact keyValid_of_exec_dout_ne (s := { s with schedule := rest }) hx hd hneed
      · rintro n rfl
        exact le_nr_of_exec_dout_ne (s := { s with schedule := rest }) hx hd

/-- Settles O40: `step_keyValid` lists the moves of KEY_VALID, and the steps named each set it as they say. -/
theorem keyValidRule : Obligations.KeyValidRule := by
  refine ⟨fun s t h h0 h1 => ?_, fun s t h h1 => ⟨fun h0 => ?_, ?_⟩, fun s t h hc => ?_, fun s t n i hk hi h => ?_⟩
  · rcases step_keyValid h with hk | ⟨hn, hp⟩ | ⟨hk, -⟩
    · simp [hk, h0] at h1
    · exact ⟨hn, hp, (keySizeParams_isSome_iff _).mp (step_keyExpand_keyValid h hn hp ▸ h1)⟩
    · simp [hk] at h1
  · rcases step_keyValid h with hk | ⟨hn, hp⟩ | ⟨-, hn | hn⟩
    · simp [hk, h1] at h0
    · refine .inr (.inr ⟨hn, hp, (keySizeParams_eq_none_iff _).mp ?_⟩)
      simpa [h0] using step_keyExpand_keyValid h hn hp
    · exact .inl hn
    · exact .inr (.inl hn)
  · rintro (hn | ⟨hb, w, v, hn⟩ | ⟨hn, hp, hc⟩)
    · exact step_assert_keyValid h hn
    · exact step_keyWrite_keyValid h hb hn
    · simp [step_keyExpand_keyValid h hn hp, (keySizeParams_eq_none_iff _).mpr hc]
  · rcases exec_keyValid h with ⟨-, hk⟩ | ⟨hi, -⟩
    · rw [hk]
      exact (keySizeParams_isSome_iff _).mpr hc
    · exact absurd rfl hi
  · have hneed : needsKey i := by
      rcases hi with rfl | rfl | rfl | rfl <;> simp [needsKey]
    rw [exec_of_noKey hneed hk] at h
    cases h
    exact ⟨rfl, rfl⟩

/-- Settles O8: the fields of `State.reset`, and the reads of CMD and KEYn there. -/
theorem resetValues : Obligations.ResetValues := by
  refine ⟨by decide, rfl, rfl, rfl, rfl, by decide, hostReads_readReg cmd_standsAt rfl, fun w => ⟨?_, ?_⟩,
    fun w => ⟨?_, ?_⟩, entry_zeroMatrix, rfl, rfl⟩
  · simp [State.reset]
  · exact hostReads_readReg (key_standsAt w) rfl
  · simp [State.reset]
  · simp [State.reset]

/-- Settles O23: each flag and enable is the bit of its register word. -/
theorem irqLevel : Obligations.IrqLevel := by
  refine ⟨fun s => ?_, rfl⟩
  rw [statusWord_bit_done, statusWord_bit_err, ctrlWord_bit_ieDone, ctrlWord_bit_ieErr]
  rfl

end Sys2Proof.Machine
end

section
/-! PROOFS. The statements of spec/20_memory.md: inadmissible accesses (R63) and reserved offsets (R68). -/

namespace Sys2Proof.Machine

/-! ### Accesses that are not admitted -/

theorem admitted_eq_false {off width : Nat} (h : width ≠ 4 ∨ off % 4 ≠ 0) : admitted off width = false := by
  simp only [admitted, decide_eq_false_iff_not]
  omega

/-- A read of the window that is not admitted is a bus error and leaves the state as it is. -/
theorem answerAccess_read_inadmissible {off width : Nat} (ho : off < 0x100) (h : width ≠ 4 ∨ off % 4 ≠ 0) (s : State) :
    answerAccess (.read (Config.base + off) width) s = (.busError, s) := by
  simp [answerAccess, windowRead, ho, admitted_eq_false h]

/-- A write of the window that is not admitted is a bus error and leaves the state as it is. -/
theorem answerAccess_write_inadmissible {off width : Nat} (ho : off < 0x100) (h : width ≠ 4 ∨ off % 4 ≠ 0) (v : Word)
    (s : State) : answerAccess (.write (Config.base + off) width v) s = (.busError, s) := by
  simp [answerAccess, windowWrite, ho, admitted_eq_false h]

/-- The step of an access that is answered without touching the state: only the bus log gains the transaction. -/
theorem step_host_of_answer {a : Access} {ans : Answer} (h : ∀ s, answerAccess a s = (ans, s)) (s : State)
    (rest : List Turn) :
    step { s with schedule := .host a :: rest } = .next { s with schedule := rest, bus := ⟨a, ans⟩ :: s.bus } := by
  simp [step, hostAccess, h, logTransaction]

/-! ### The reserved offsets -/

/-- 0x0C and the offsets from 0x50 lie outside every range of `regAt`. -/
theorem reserved_standsAt {off : Nat} (h4 : off % 4 = 0) (h : off = 0x0C ∨ (0x50 ≤ off ∧ off ≤ 0xFC)) :
    standsAt .reserved off := by
  refine ⟨by omega, h4, ?_⟩
  rw [regAt, if_neg (by omega), if_neg (by omega), if_neg (by omega), if_neg (by omega), if_neg (by omega),
    if_neg (by omega)]

/-! ### The statements -/

/-- Settles O11: an inadmissible access only logs a bus error; an aligned one reads or writes the register that stands at
its offset. -/
theorem inadmissibleAccessIsABusError : Obligations.InadmissibleAccessIsABusError := by
  intro s off width v rest hr ho
  refine ⟨fun h => ⟨?_, ?_⟩, fun _ h4 => ?_⟩
  · exact step_host_of_answer (answerAccess_read_inadmissible ho h) s rest
  · exact step_host_of_answer (answerAccess_write_inadmissible ho h v) s rest
  · have hreg : standsAt (regAt off) off := ⟨ho, h4, rfl⟩
    exact ⟨by omega, ⟨_, _, hostReads_readReg hreg hr⟩, _, hostWrites_writeReg hreg hr v⟩

/-- Settles O20: `readReg` answers 0 at a reserved offset and `writeReg` ignores the write, both without asking for BUSY. -/
theorem reservedOffsets : Obligations.ReservedOffsets := fun _ _ v hr h4 h =>
  ⟨hostReads_readReg (reserved_standsAt h4 h) hr, hostWrites_writeReg (reserved_standsAt h4 h) hr v⟩

end Sys2Proof.Machine
end

section
/-! PROOFS. The statements of spec/30_encoding.md: the opcode map (R91) and the illegal words (R95).  Both rest on one fact,
`match_iff`: a word matches a row when its `OP` is the row's and it sets no bit that the row leaves unused. -/

namespace Sys2Proof.Machine

/-! ### The rows of the opcode map, field by field -/

/-- Two words are equal when their five fields are (R90). -/
theorem word_eq_iff_fields (w v : Word) :
    w = v ↔ w.extractLsb' 0 8 = v.extractLsb' 0 8 ∧ w.extractLsb' 8 4 = v.extractLsb' 8 4 ∧
      w.extractLsb' 12 4 = v.extractLsb' 12 4 ∧ w.extractLsb' 16 4 = v.extractLsb' 16 4 ∧
      w.extractLsb' 20 12 = v.extractLsb' 20 12 := by
  refine ⟨fun h => by simp [h], ?_⟩
  simp only [← BitVec.toNat_inj, BitVec.extractLsb'_toNat, Nat.shiftRight_eq_div_pow]
  omega

/-- The `OP` column of R94. -/
theorem opcodeMap_ops : opcodeMap.map (fun r => opField r.value) = assignedOps := by decide

/-- No two rows of R94 have the same `OP`. -/
theorem opcodeMap_ops_nodup : (opcodeMap.map fun r => opField r.value).Nodup := by decide

/-- R94: `match` is the row's `OP` and nothing else. -/
theorem value_fields : ∀ r ∈ opcodeMap, r.value.extractLsb' 8 4 = 0 ∧ r.value.extractLsb' 12 4 = 0 ∧
    r.value.extractLsb' 16 4 = 0 ∧ r.value.extractLsb' 20 12 = 0 := by decide

/-- R94: the mask leaves out LEN in the row of ENCRYPT_FINAL and RKIDX in the row of ADD_ROUND_KEY. -/
theorem mask_fields : ∀ r ∈ opcodeMap,
    r.mask.extractLsb' 0 8 = BitVec.allOnes 8 ∧
    r.mask.extractLsb' 8 4 = (if r.value.extractLsb' 0 8 = 0x12#8 then 0 else BitVec.allOnes 4) ∧
    r.mask.extractLsb' 12 4 = BitVec.allOnes 4 ∧
    r.mask.extractLsb' 16 4 = (if r.value.extractLsb' 0 8 = 0x26#8 then 0 else BitVec.allOnes 4) ∧
    r.mask.extractLsb' 20 12 = BitVec.allOnes 12 := by decide

/-- The word sets no reserved bit and no operand its `OP` does not read (R92, R93, R95). -/
def onlyOwnFields (w : Word) : Prop :=
  w.extractLsb' 20 12 = 0 ∧ w.extractLsb' 12 4 = 0 ∧ (w.extractLsb' 8 4 ≠ 0 → w.extractLsb' 0 8 = 0x12#8) ∧
  (w.extractLsb' 16 4 ≠ 0 → w.extractLsb' 0 8 = 0x26#8)

/-- A field that is masked unless `reads` holds is 0 under the mask when a non-zero value implies `reads`. -/
theorem and_operandMask_eq_zero_iff {n : Nat} (x : BitVec n) (reads : Prop) [Decidable reads] :
    x &&& (if reads then 0 else BitVec.allOnes n) = 0 ↔ (x ≠ 0 → reads) := by
  by_cases h : reads
  · simp [h]
  · simp [h]

/-- R94: a word matches a row when it has the row's `OP` and sets only the fields of that `OP`. -/
theorem match_iff {r : OpcodeRow} (hr : r ∈ opcodeMap) (w : Word) :
    w &&& r.mask = r.value ↔ opField w = opField r.value ∧ onlyOwnFields w := by
  obtain ⟨v8, v12, v16, v20⟩ := value_fields r hr
  obtain ⟨m0, m8, m12, m16, m20⟩ := mask_fields r hr
  rw [word_eq_iff_fields, opField, opField, BitVec.toNat_inj]
  simp only [BitVec.extractLsb'_and, v8, v12, v16, v20, m0, m8, m12, m16, m20, BitVec.and_allOnes,
    and_operandMask_eq_zero_iff, onlyOwnFields]
  refine and_congr_right fun hop => ?_
  rw [hop]
  tauto

/-- Two rows that match one word are the same row (R91). -/
theorem row_eq_of_match {r q : OpcodeRow} {w : Word} (hr : r ∈ opcodeMap) (hq : q ∈ opcodeMap)
    (hwr : w &&& r.mask = r.value) (hwq : w &&& q.mask = q.value) : r = q :=
  List.inj_on_of_nodup_map opcodeMap_ops_nodup hr hq
    (((match_iff hr w).mp hwr).1.symm.trans ((match_iff hq w).mp hwq).1)

/-! ### The decoder and the engine's turn -/

/-- A word that matches a row decodes to that row's command (R91). -/
theorem decode_of_match {r : OpcodeRow} {w : Word} (hr : r ∈ opcodeMap) (hw : w &&& r.mask = r.value) :
    decode w = .ok (r.build w) := by
  unfold decode
  split
  · rename_i q hq
    have hwq : w &&& q.mask = q.value := by simpa [rowMatches] using List.find?_some hq
    rw [row_eq_of_match hr (List.mem_of_find?_eq_some hq) hw hwq]
  · rename_i hn
    exact absurd hw (by simpa [rowMatches] using List.find?_eq_none.mp hn r hr)

/-- The words the decoder refuses are those no row matches (R95). -/
theorem decode_error_iff (w : Word) : (∃ e, decode w = .error e) ↔ ∀ r ∈ opcodeMap, w &&& r.mask ≠ r.value := by
  constructor
  · rintro ⟨e, he⟩ r hr hw
    simp [decode_of_match hr hw] at he
  · intro h
    cases hd : decode w with
    | error e => exact ⟨e, rfl⟩
    | ok i =>
      obtain ⟨r, hr, hw, -⟩ := decode_eq_ok hd
      exact absurd hw (h r hr)

/-- A row matches a word exactly when its `OP` is assigned and it sets only the fields of that `OP`. -/
theorem exists_match_iff (w : Word) :
    (∃ r ∈ opcodeMap, w &&& r.mask = r.value) ↔ opField w ∈ assignedOps ∧ onlyOwnFields w := by
  rw [← opcodeMap_ops, List.mem_map]
  constructor
  · rintro ⟨r, hr, hw⟩
    obtain ⟨hop, hf⟩ := (match_iff hr w).mp hw
    exact ⟨⟨r, hr, hop.symm⟩, hf⟩
  · rintro ⟨⟨r, hr, hop⟩, hf⟩
    exact ⟨r, hr, (match_iff hr w).mpr ⟨hop.symm, hf⟩⟩

/-- The engine's turn with an illegal word pending raises E_ILLEGAL_CMD (R95). -/
theorem engineTurn_of_illegal {s : State} {w : Word} (hp : pending s w) (hd : ∃ e, decode w = .error e) :
    engineTurn s = .next (raise .illegalCmd s) := by
  obtain ⟨e, he⟩ := hd
  simp [engineTurn, pendingWord_of_pending hp, he]

/-! ### The statements -/

/-- Settles O2: `OP` tells the rows apart, so the row that matches is the one the decoder finds. -/
theorem engineFollowsTheOpcodeMap : Obligations.EngineFollowsTheOpcodeMap := by
  refine ⟨?_, by decide, fun s r rest hp hr hw => ?_, fun s rest hp hn => ?_⟩
  · refine (List.pairwise_map.mp opcodeMap_ops_nodup).imp_of_mem fun hr hq hne w ⟨hwr, hwq⟩ => hne ?_
    rw [row_eq_of_match hr hq hwr hwq]
  · exact engineTurn_of_pending (s := { s with schedule := rest }) hp (decode_of_match hr hw)
  · exact engineTurn_of_illegal (s := { s with schedule := rest }) hp ((decode_error_iff _).mpr hn)

/-- Settles O3: the four cases of R95 negate `exists_match_iff`, and E_ILLEGAL_CMD writes STATUS only. -/
theorem illegalWordsRaiseIllegalCmd : Obligations.IllegalWordsRaiseIllegalCmd := by
  refine ⟨fun w => ?_, fun s rest hp he => ?_⟩
  · have h := not_congr (exists_match_iff w)
    push Not at h
    rw [decode_error_iff, h]
    simp only [onlyOwnFields, opField, assignedOps]
    tauto
  · exact engineTurn_of_illegal (s := { s with schedule := rest }) hp he

end Sys2Proof.Machine
end

section
/-! PROOFS. The statement of spec/40_byte_matrix.md: load and serialize (R128).  Entry `(r, c)` of a matrix is byte `4c + r` of
its block, and `p = 4 * (p div 4) + p mod 4` says that every byte is such an entry. -/

namespace Sys2Proof.Machine

/-- Byte `4c + r` of a serialized matrix is its entry at row `r`, column `c` (R127). -/
theorem getElem_serialize_entry (S : ByteMatrix) (r c : Fin 4) : (serialize S)[4 * c.val + r.val] = entry S r c := by
  have hrow : Fin.ofNat 4 ((4 * c.val + r.val) % 4) = r := Fin.ext (by simp)
  have hcol : Fin.ofNat 4 ((4 * c.val + r.val) / 4) = c := Fin.ext (by simp; omega)
  rw [getElem_serialize, hrow, hcol]

/-- Serializing a loaded block gives the block back (R128). -/
@[simp] theorem serialize_load (b : Block) : serialize (load b) = b := by
  ext1 p hp
  have hindex : 4 * (p / 4 % 4) + p % 4 = p := by omega
  simp [hindex]

/-- Loading a serialized matrix gives the matrix back (R128). -/
@[simp] theorem load_serialize (S : ByteMatrix) : load (serialize S) = S :=
  matrix_eq_of_entries fun r c => by rw [entry_load, getElem_serialize_entry]

/-- Settles O48: `4c + r` numbers the entries of a matrix and the bytes of its block alike, in both directions. -/
theorem loadSerializeInverse : Obligations.LoadSerializeInverse := ⟨serialize_load, load_serialize⟩

end Sys2Proof.Machine
end

section
/-! PROOFS. The field of spec/41_state_transforms.md (R142, R143): `xtime` is additive, the loop of `gmul` is additive in
both factors and commutes with `xtime`, and 1 is its unit.  So multiplications commute with each other
(`gmul_right_comm`), from which the product is commutative and associative. -/

namespace Sys2Proof.Machine

/-- A term added on both sides of a sum drops out of it. -/
theorem xor_xor_xor_cancel (p q a : Byte) : (p ^^^ a) ^^^ (q ^^^ a) = p ^^^ q := by
  rw [BitVec.xor_comm q, ← BitVec.xor_assoc, xor_cancel_right]

/-! ### `xtime` and the loop of `gmul` -/

theorem xtime_of_low {b : Byte} (h : b.getLsbD 7 = false) : xtime b = b <<< 1 := if_neg (Bool.eq_false_iff.mp h)

theorem xtime_of_high {b : Byte} (h : b.getLsbD 7 = true) : xtime b = (b <<< 1) ^^^ 0x1B#8 := if_pos h

theorem xtime_xor (a b : Byte) : xtime (a ^^^ b) = xtime a ^^^ xtime b := by
  have hbit : (a ^^^ b).getLsbD 7 = (a.getLsbD 7 ^^ b.getLsbD 7) := BitVec.getLsbD_xor
  have hshift : (a ^^^ b) <<< 1 = a <<< 1 ^^^ b <<< 1 := BitVec.shiftLeft_xor_distrib a b 1
  cases ha : a.getLsbD 7 <;> cases hb : b.getLsbD 7 <;> rw [ha, hb] at hbit
  · rw [xtime_of_low hbit, xtime_of_low ha, xtime_of_low hb, hshift]
  · rw [xtime_of_high hbit, xtime_of_low ha, xtime_of_high hb, hshift, BitVec.xor_assoc]
  · rw [xtime_of_high hbit, xtime_of_high ha, xtime_of_low hb, hshift]; ac_rfl
  · rw [xtime_of_low hbit, xtime_of_high ha, xtime_of_high hb, hshift, xor_xor_xor_cancel]

/-- The loop adds up the multiples of `a` that the bits of `b` select (R143). -/
theorem gmulLoop_eq_foldl (n : Nat) (p a b : Byte) : gmulLoop n p a b =
    (List.range n).foldl (fun p i => if b.getLsbD i = true then p ^^^ xtime^[i] a else p) p := by
  induction n generalizing p a b with
  | zero => rfl
  | succ n ih =>
    have hbit : ∀ i, (b >>> 1).getLsbD i = b.getLsbD (i + 1) := fun i => by simp [Nat.add_comm]
    simp only [gmulLoop, ih, List.range_succ_eq_map, List.foldl_cons, List.foldl_map, hbit, Function.iterate_succ_apply]
    rfl

theorem gmulLoop_xor_left (n : Nat) (p q a b c : Byte) :
    gmulLoop n (p ^^^ q) (a ^^^ b) c = gmulLoop n p a c ^^^ gmulLoop n q b c := by
  induction n generalizing p q a b c with
  | zero => rfl
  | succ n ih =>
    simp only [gmulLoop, xtime_xor, ← ih]
    refine congrArg (gmulLoop n · _ _) ?_
    cases c.getLsbD 0
    · rfl
    · simp only [if_true]; ac_rfl

theorem gmulLoop_xor_right (n : Nat) (p q a b c : Byte) :
    gmulLoop n (p ^^^ q) a (b ^^^ c) = gmulLoop n p a b ^^^ gmulLoop n q a c := by
  induction n generalizing p q a b c with
  | zero => rfl
  | succ n ih =>
    simp only [gmulLoop, BitVec.ushiftRight_xor_distrib, ← ih, BitVec.getLsbD_xor]
    refine congrArg (gmulLoop n · _ _) ?_
    cases b.getLsbD 0 <;> cases c.getLsbD 0
    · rfl
    · exact BitVec.xor_assoc p q a
    · simp only [Bool.xor_false, if_true, Bool.false_eq_true, if_false]; ac_rfl
    · exact (xor_xor_xor_cancel p q a).symm

theorem gmulLoop_xtime (n : Nat) (p a b : Byte) : gmulLoop n (xtime p) (xtime a) b = xtime (gmulLoop n p a b) := by
  induction n generalizing p a b with
  | zero => rfl
  | succ n ih =>
    simp only [gmulLoop, ← ih, ← xtime_xor]
    cases b.getLsbD 0 <;> rfl

/-! ### The product -/

theorem gmul_xor_left (a b c : Byte) : gmul (a ^^^ b) c = gmul a c ^^^ gmul b c :=
  gmulLoop_xor_left 8 0 0 a b c

theorem gmul_xor_right (a b c : Byte) : gmul a (b ^^^ c) = gmul a b ^^^ gmul a c :=
  gmulLoop_xor_right 8 0 0 a b c

theorem gmul_xtime (a b : Byte) : gmul (xtime a) b = xtime (gmul a b) :=
  gmulLoop_xtime 8 0 a b

theorem gmul_zero (a : Byte) : gmul a 0 = 0 := by
  simpa using gmul_xor_right a 0 0

theorem zero_gmul (a : Byte) : gmul 0 a = 0 := by
  simpa using gmul_xor_left 0 0 a

theorem gmul_one (a : Byte) : gmul a 1 = a := by
  simp [gmul, gmulLoop]

theorem one_gmul (a : Byte) : gmul 1 a = a := by
  revert a
  decide +kernel

/-- Multiplying the loop by `c` multiplies its accumulator and its first factor by `c`. -/
theorem gmul_gmulLoop (n : Nat) (p a b c : Byte) : gmul (gmulLoop n p a b) c = gmulLoop n (gmul p c) (gmul a c) b := by
  induction n generalizing p a b with
  | zero => rfl
  | succ n ih =>
    simp only [gmulLoop, ih, gmul_xtime, ← gmul_xor_left]
    cases b.getLsbD 0 <;> rfl

theorem gmul_right_comm (a b c : Byte) : gmul (gmul a b) c = gmul (gmul a c) b :=
  (gmul_gmulLoop 8 0 a b c).trans (by rw [zero_gmul]; rfl)

theorem gmul_comm (a b : Byte) : gmul a b = gmul b a := by
  simpa only [one_gmul] using gmul_right_comm 1 a b

theorem gmul_assoc (a b c : Byte) : gmul (gmul a b) c = gmul a (gmul b c) := by
  rw [gmul_comm a b, gmul_right_comm, gmul_comm]

/-- Settles O52: the loop of `gmul` unrolls to the sum, and the product of the field is commutative. -/
theorem fieldProduct : Obligations.FieldProduct :=
  ⟨fun _ => ⟨xtime_of_low, xtime_of_high⟩, gmulLoop_eq_foldl 8 0, gmul_comm,
    fun a => ⟨gmul_one a, gmul_zero a⟩⟩

end Sys2Proof.Machine
end

section
/-! PROOFS. The transforms of spec/41_state_transforms.md (R145 to R153).  MIX_COLUMNS and its inverse multiply a column by a
circulant matrix over the field, and circulant matrices are closed under composition: everything said of the two maps is
said once of `circulant` and then of their coefficients. -/

namespace Sys2Proof.Machine

/-! ### Circulant matrices -/

/-- The product of the column `a` with the circulant matrix whose first row is `k`. -/
def circulant (k a : Column) : Column where
  a0 := gmul a.a0 k.a0 ^^^ gmul a.a1 k.a1 ^^^ gmul a.a2 k.a2 ^^^ gmul a.a3 k.a3
  a1 := gmul a.a1 k.a0 ^^^ gmul a.a2 k.a1 ^^^ gmul a.a3 k.a2 ^^^ gmul a.a0 k.a3
  a2 := gmul a.a2 k.a0 ^^^ gmul a.a3 k.a1 ^^^ gmul a.a0 k.a2 ^^^ gmul a.a1 k.a3
  a3 := gmul a.a3 k.a0 ^^^ gmul a.a0 k.a1 ^^^ gmul a.a1 k.a2 ^^^ gmul a.a2 k.a3

theorem colByte_circulant (k a : Column) (i : Fin 4) : colByte (circulant k a) i =
    gmul (colByte a i) k.a0 ^^^ gmul (colByte a (i + 1)) k.a1 ^^^ gmul (colByte a (i + 2)) k.a2 ^^^
      gmul (colByte a (i + 3)) k.a3 := by
  fin_cases i <;> rfl

theorem circulant_xorCol (k a b : Column) : circulant k (xorCol a b) = xorCol (circulant k a) (circulant k b) := by
  simp only [circulant, xorCol, gmul_xor_left, Column.mk.injEq]
  refine ⟨?_, ?_, ?_, ?_⟩ <;> ac_rfl

/-- A column of equal bytes is multiplied by the sum of the coefficients. -/
theorem circulant_constant (k : Column) (v : Byte) : circulant k ⟨v, v, v, v⟩ =
    ⟨gmul v (k.a0 ^^^ k.a1 ^^^ k.a2 ^^^ k.a3), gmul v (k.a0 ^^^ k.a1 ^^^ k.a2 ^^^ k.a3),
      gmul v (k.a0 ^^^ k.a1 ^^^ k.a2 ^^^ k.a3), gmul v (k.a0 ^^^ k.a1 ^^^ k.a2 ^^^ k.a3)⟩ := by
  simp only [circulant, gmul_xor_right]

theorem circulant_one (a : Column) : circulant ⟨1, 0, 0, 0⟩ a = a := by
  simp only [circulant, gmul_one, gmul_zero, xor_zero]

/-- The composition of two circulant matrices is circulant; its first row is `l` multiplied by the transpose of `k`. -/
theorem circulant_circulant (k l a : Column) :
    circulant k (circulant l a) = circulant (circulant ⟨k.a0, k.a3, k.a2, k.a1⟩ l) a := by
  simp only [circulant, gmul_xor_left, gmul_xor_right, gmul_assoc, Column.mk.injEq]
  refine ⟨?_, ?_, ?_, ?_⟩ <;> ac_rfl

/-! ### One column of MIX_COLUMNS and of its inverse -/

theorem mixColumn_eq_circulant (a : Column) : mixColumn a = circulant ⟨2, 3, 1, 1⟩ a := by
  simp only [mixColumn, circulant, gmul_one]
  congr 1 <;> ac_rfl

theorem inverseMixColumn_eq_circulant (a : Column) : inverseMixColumn a = circulant ⟨14, 11, 13, 9⟩ a := by
  simp only [inverseMixColumn, circulant]
  congr 1 <;> ac_rfl

theorem mixColumn_constant (v : Byte) : mixColumn ⟨v, v, v, v⟩ = ⟨v, v, v, v⟩ := by
  rw [mixColumn_eq_circulant, circulant_constant, show (2 ^^^ 3 ^^^ 1 ^^^ 1 : Byte) = 1 from rfl, gmul_one]

theorem inverseMixColumn_constant (v : Byte) : inverseMixColumn ⟨v, v, v, v⟩ = ⟨v, v, v, v⟩ := by
  rw [inverseMixColumn_eq_circulant, circulant_constant, show (14 ^^^ 11 ^^^ 13 ^^^ 9 : Byte) = 1 from rfl, gmul_one]

theorem inverseMixColumn_mixColumn (a : Column) : inverseMixColumn (mixColumn a) = a := by
  have hcoeff : circulant ⟨14, 9, 13, 11⟩ ⟨2, 3, 1, 1⟩ = ⟨1, 0, 0, 0⟩ := by decide
  rw [inverseMixColumn_eq_circulant, mixColumn_eq_circulant, circulant_circulant, hcoeff, circulant_one]

theorem mixColumn_inverseMixColumn (a : Column) : mixColumn (inverseMixColumn a) = a := by
  have hcoeff : circulant ⟨2, 1, 1, 3⟩ ⟨14, 11, 13, 9⟩ = ⟨1, 0, 0, 0⟩ := by decide
  rw [inverseMixColumn_eq_circulant, mixColumn_eq_circulant, circulant_circulant, hcoeff, circulant_one]

/-! ### The transforms of a matrix -/

theorem combine_comm (S T : ByteMatrix) : combine S T = combine T S :=
  matrix_eq_of_entries fun r c => by simp only [entry_combine, BitVec.xor_comm]

theorem combine_self (S : ByteMatrix) : combine S S = zeroMatrix :=
  matrix_eq_of_entries fun r c => by simp

@[simp] theorem column_mixColumns (S : ByteMatrix) (c : Fin 4) : column (mixColumns S) c = mixColumn (column S c) := by
  fin_cases c <;> rfl

@[simp] theorem column_inverseMixColumns (S : ByteMatrix) (c : Fin 4) :
    column (inverseMixColumns S) c = inverseMixColumn (column S c) := by
  fin_cases c <;> rfl

@[simp] theorem column_combine (S T : ByteMatrix) (c : Fin 4) :
    column (combine S T) c = xorCol (column S c) (column T c) := by
  fin_cases c <;> rfl

/-- Row by row, MIX_COLUMNS is the circulant of `2, 3, 1, 1` (R149). -/
theorem entry_mixColumns (S : ByteMatrix) (r c : Fin 4) : entry (mixColumns S) r c =
    gmul (entry S r c) 2 ^^^ gmul (entry S (r + 1) c) 3 ^^^ entry S (r + 2) c ^^^ entry S (r + 3) c := by
  simp only [entry, column_mixColumns, mixColumn_eq_circulant, colByte_circulant, gmul_one]

/-- Row by row, INV_MIX_COLUMNS is the circulant of `14, 11, 13, 9` (R150). -/
theorem entry_inverseMixColumns (S : ByteMatrix) (r c : Fin 4) : entry (inverseMixColumns S) r c =
    gmul (entry S r c) 14 ^^^ gmul (entry S (r + 1) c) 11 ^^^ gmul (entry S (r + 2) c) 13 ^^^
      gmul (entry S (r + 3) c) 9 := by
  simp only [entry, column_inverseMixColumns, inverseMixColumn_eq_circulant, colByte_circulant]

theorem mixColumns_combine (S T : ByteMatrix) : mixColumns (combine S T) = combine (mixColumns S) (mixColumns T) := by
  have hcolumn : ∀ a b, mixColumn (xorCol a b) = xorCol (mixColumn a) (mixColumn b) := fun a b => by
    simp only [mixColumn_eq_circulant, circulant_xorCol]
  exact matrix_eq_of_entries fun r c => by simp only [entry, column_mixColumns, column_combine, hcolumn]

theorem inverseMixColumns_mixColumns (S : ByteMatrix) : inverseMixColumns (mixColumns S) = S := by
  simp only [inverseMixColumns, mixColumns, inverseMixColumn_mixColumn]

theorem mixColumns_inverseMixColumns (S : ByteMatrix) : mixColumns (inverseMixColumns S) = S := by
  simp only [inverseMixColumns, mixColumns, mixColumn_inverseMixColumn]

@[simp] theorem invSbox_sbox (x : Byte) : invSbox (sbox x) = x := by
  revert x
  decide +kernel

@[simp] theorem sbox_invSbox (x : Byte) : sbox (invSbox x) = x := by
  revert x
  decide +kernel

theorem inverseSubstitute_substitute (S : ByteMatrix) : inverseSubstitute (substitute S) = S :=
  matrix_eq_of_entries fun r c => by simp

theorem substitute_inverseSubstitute (S : ByteMatrix) : substitute (inverseSubstitute S) = S :=
  matrix_eq_of_entries fun r c => by simp

theorem inverseShiftRows_shiftRows (S : ByteMatrix) : inverseShiftRows (shiftRows S) = S :=
  matrix_eq_of_entries fun r c => by simp

theorem shiftRows_inverseShiftRows (S : ByteMatrix) : shiftRows (inverseShiftRows S) = S :=
  matrix_eq_of_entries fun r c => by simp

theorem substitute_shiftRows (S : ByteMatrix) : substitute (shiftRows S) = shiftRows (substitute S) :=
  matrix_eq_of_entries fun r c => by simp

theorem inverseSubstitute_inverseShiftRows (S : ByteMatrix) :
    inverseSubstitute (inverseShiftRows S) = inverseShiftRows (inverseSubstitute S) :=
  matrix_eq_of_entries fun r c => by simp

/-- Four rotations of the rows are none (R157). -/
theorem shiftRows_four (S : ByteMatrix) : shiftRows^[4] S = S :=
  matrix_eq_of_entries fun r c => by
    have hround : ∀ c r : Fin 4, c + r + r + r + r = c := by decide
    simp [hround]

/-- Four rotations of the rows back are none (R158). -/
theorem inverseShiftRows_four (S : ByteMatrix) : inverseShiftRows^[4] S = S :=
  matrix_eq_of_entries fun r c => by
    have hround : ∀ c r : Fin 4, c - r - r - r - r = c := by decide
    simp [hround]

/-- Settles O49: entry by entry for bytes and rows, and by the product of the circulants for columns. -/
theorem transformsAreInverses : Obligations.TransformsAreInverses :=
  ⟨fun S => ⟨inverseSubstitute_substitute S, substitute_inverseSubstitute S⟩,
    fun S => ⟨inverseShiftRows_shiftRows S, shiftRows_inverseShiftRows S⟩,
    fun S => ⟨inverseMixColumns_mixColumns S, mixColumns_inverseMixColumns S⟩,
    fun S => ⟨substitute_shiftRows S, inverseSubstitute_inverseShiftRows S⟩⟩

end Sys2Proof.Machine
end

section
/-! PROOFS. The single-transform commands (spec/41_state_transforms.md R154 to R162).  Six of them are `transformDin f` for a
transform `f` from every state, so what the template (R154) does to DOUT is said once, for every `f`; ADD_ROUND_KEY is
`transformDin` too once its two checks have passed. -/

namespace Sys2Proof.Machine

/-! ### Register words as matrices -/

/-- Entry `(r, c)` of the input matrix is byte `r` of DINc (R38, R120). -/
theorem entry_load_dinBlock (s : State) (r c : Fin 4) : entry (load (dinBlock s)) r c = wordByte s.din[c] r.val := by
  rw [entry_load, getElem_dinBlock]

/-- Byte `r` of register `c` of a serialized matrix is entry `(r, c)` (R39, R127). -/
theorem wordByte_serialize (S : ByteMatrix) (c r : Fin 4) :
    wordByte (wordsOfBlock (serialize S))[c] r.val = entry S r c := by
  rw [wordByte_wordsOfBlock, getElem_serialize_entry]

theorem wordsOfBlock_serialize_dinBlock (s : State) : wordsOfBlock (serialize (load (dinBlock s))) = s.din := by
  rw [serialize_load, dinBlock, wordsOfBlock_blockOfWords]

/-- Four registers with the same bytes are equal. -/
theorem words_eq_of_bytes {v w : Vector Word 4} (h : ∀ c r : Fin 4, wordByte v[c] r.val = wordByte w[c] r.val) :
    v = w :=
  words_eq_of_blocks (Vector.ext fun p hp => by
    simpa using h ⟨p / 4, by omega⟩ ⟨p % 4, by omega⟩)

/-! ### The template (R154) -/

theorem transformDin_dout (f : ByteMatrix → ByteMatrix) (s : State) :
    (transformDin f s).dout = wordsOfBlock (serialize (f (load (dinBlock s)))) := rfl

/-- Byte `i` of DOUTw is entry `(i, w)` of the transformed matrix. -/
theorem wordByte_transformDin (f : ByteMatrix → ByteMatrix) (s : State) (w i : Fin 4) :
    wordByte (transformDin f s).dout[w] i.val = entry (f (load (dinBlock s))) i w :=
  wordByte_serialize _ w i

/-- Nothing but DOUT, BUSY and DONE changes. -/
theorem transformDin_frame (f : ByteMatrix → ByteMatrix) (s : State) : transformDin f s =
    { s with dout := (transformDin f s).dout, status := { s.status with busy := false, done := true } } := rfl

/-- DOUT, loaded again, is the transformed matrix. -/
theorem load_dout_transformDin (f : ByteMatrix → ByteMatrix) (s : State) :
    load (blockOfWords (transformDin f s).dout) = f (load (dinBlock s)) := by
  rw [transformDin_dout, blockOfWords_wordsOfBlock, load_serialize]

/-- The state after the host has copied DOUT to DIN (95_test_vectors.md P3). -/
def copyDout (s : State) : State := { s with din := s.dout }

theorem dinBlock_copyDout (s : State) : dinBlock (copyDout s) = blockOfWords s.dout := rfl

theorem runCopying_cons {i : Instr} {s t : State} (h : exec i s = .next t) (is : List Instr) :
    runCopying (i :: is) s = runCopying is (copyDout t) := by
  simp only [runCopying, h, copyDout]

section
variable {i j : Instr} {f g : ByteMatrix → ByteMatrix}

/-- A command of the template completes with the serialized transform of a given DIN. -/
theorem dout_of_din (hi : ∀ s, exec i s = .next (transformDin f s)) {d o : Vector Word 4}
    (ho : wordsOfBlock (serialize (f (load (blockOfWords d)))) = o) (s : State) (hd : s.din = d) :
    ∃ t, exec i s = .next t ∧ t.dout = o :=
  ⟨_, hi s, by rw [transformDin_dout, dinBlock, hd, ho]⟩

/-- A command whose transform undoes that of another gives the block back. -/
theorem exec_undoes (hi : ∀ s, exec i s = .next (transformDin f s)) (hj : ∀ s, exec j s = .next (transformDin g s))
    (hgf : ∀ S, g (f S) = S) (s t : State) (h : exec i s = .next t) :
    ∃ u, exec j { t with din := t.dout } = .next u ∧ u.dout = s.din := by
  obtain rfl : transformDin f s = t := Host.Outcome.next.inj ((hi s).symm.trans h)
  refine ⟨_, hj (copyDout (transformDin f s)), ?_⟩
  rw [transformDin_dout, dinBlock_copyDout, load_dout_transformDin, hgf, wordsOfBlock_serialize_dinBlock]

/-- The command run `n + 1` times, DOUT copied to DIN after each, iterates its transform. -/
theorem runCopying_replicate (hi : ∀ s, exec i s = .next (transformDin f s)) (n : Nat) (s : State) :
    ∃ t, runCopying (List.replicate (n + 1) i) s = some t ∧
      t.dout = wordsOfBlock (serialize (f^[n + 1] (load (dinBlock s)))) := by
  induction n generalizing s with
  | zero => exact ⟨_, runCopying_cons (hi s) [], rfl⟩
  | succ n ih =>
    obtain ⟨t, ht, hdout⟩ := ih (copyDout (transformDin f s))
    refine ⟨t, (runCopying_cons (hi s) _).trans ht, ?_⟩
    rw [hdout, dinBlock_copyDout, load_dout_transformDin, ← Function.iterate_succ_apply]

/-- A command whose transform is the identity when iterated four times gives the block back after four runs. -/
theorem runCopying_four (hi : ∀ s, exec i s = .next (transformDin f s)) (hf : ∀ S, f^[4] S = S) (s : State) :
    ∃ t, runCopying [i, i, i, i] s = some t ∧ t.dout = s.din := by
  obtain ⟨t, ht, hdout⟩ := runCopying_replicate hi 3 s
  exact ⟨t, ht, by rw [hdout, hf, wordsOfBlock_serialize_dinBlock]⟩

end

/-! ### The statements on substitution -/

theorem exec_subBytes (s : State) : exec .subBytes s = .next (transformDin substitute s) := rfl

theorem exec_invSubBytes (s : State) : exec .invSubBytes s = .next (transformDin inverseSubstitute s) := rfl

/-- Settles O30: the template with `substitute`, entry by entry. -/
theorem subBytesCommand : Obligations.SubBytesCommand := by
  refine ⟨rfl, by decide, fun s => ⟨_, exec_subBytes s, fun w i => ?_, transformDin_frame _ s⟩, rfl, rfl,
    by decide +kernel, dout_of_din exec_subBytes (by decide +kernel)⟩
  rw [wordByte_transformDin, entry_substitute, entry_load_dinBlock]

/-- Settles O31: the template with `inverseSubstitute`, which undoes `substitute`. -/
theorem invSubBytesCommand : Obligations.InvSubBytesCommand := by
  refine ⟨rfl, by decide, fun s => ⟨_, exec_invSubBytes s, fun w i => ?_, transformDin_frame _ s⟩, rfl, rfl,
    exec_undoes exec_subBytes exec_invSubBytes inverseSubstitute_substitute,
    dout_of_din exec_invSubBytes (by decide +kernel)⟩
  rw [wordByte_transformDin, entry_inverseSubstitute, entry_load_dinBlock]

/-! ### The statements on rotation of rows -/

theorem exec_shiftRows (s : State) : exec .shiftRows s = .next (transformDin shiftRows s) := rfl

theorem exec_invShiftRows (s : State) : exec .invShiftRows s = .next (transformDin inverseShiftRows s) := rfl

/-- Byte `r` of DOUTw is byte `r` of DIN(w+r mod 4) (R157). -/
theorem wordByte_shiftRows (s : State) (w r : Fin 4) :
    wordByte (transformDin shiftRows s).dout[w] r.val = wordByte s.din[w + r] r.val := by
  rw [wordByte_transformDin, entry_shiftRows, entry_load_dinBlock]

/-- Byte `r` of DOUTw is byte `r` of DIN(w-r mod 4) (R158). -/
theorem wordByte_inverseShiftRows (s : State) (w r : Fin 4) :
    wordByte (transformDin inverseShiftRows s).dout[w] r.val = wordByte s.din[w - r] r.val := by
  rw [wordByte_transformDin, entry_inverseShiftRows, entry_load_dinBlock]

/-- Settles O32: the template with `shiftRows`; a rotation by 0, or of equal words, moves nothing. -/
theorem shiftRowsCommand : Obligations.ShiftRowsCommand := by
  refine ⟨rfl, by decide, fun s => ⟨_, exec_shiftRows s, wordByte_shiftRows s, transformDin_frame _ s⟩,
    fun s t h => ?_, runCopying_four exec_shiftRows shiftRows_four, dout_of_din exec_shiftRows (by decide +kernel)⟩
  obtain rfl : transformDin shiftRows s = t := Host.Outcome.next.inj h
  refine ⟨fun w => ?_, fun hrows => words_eq_of_bytes fun w r => ?_⟩
  · simpa using wordByte_shiftRows s w 0
  · rw [wordByte_shiftRows, hrows, hrows w]

/-- Settles O33: the template with `inverseShiftRows`; `w - 2 = w + 2` modulo 4, so row 2 moves as in SHIFT_ROWS. -/
theorem invShiftRowsCommand : Obligations.InvShiftRowsCommand := by
  refine ⟨rfl, by decide, fun s => ⟨_, exec_invShiftRows s, wordByte_inverseShiftRows s, transformDin_frame _ s⟩,
    fun s t h => ?_, runCopying_four exec_invShiftRows inverseShiftRows_four,
    dout_of_din exec_invShiftRows (by decide +kernel)⟩
  obtain rfl : transformDin inverseShiftRows s = t := Host.Outcome.next.inj h
  refine ⟨fun w => ⟨?_, fun u hu => ?_⟩, fun hrows => words_eq_of_bytes fun w r => ?_⟩
  · simpa using wordByte_inverseShiftRows s w 0
  · obtain rfl : transformDin shiftRows s = u := Host.Outcome.next.inj hu
    have hword : ∀ w : Fin 4, w - 2 = w + 2 := by decide
    calc wordByte (transformDin inverseShiftRows s).dout[w] 2
      _ = wordByte s.din[w - 2] 2 := wordByte_inverseShiftRows s w 2
      _ = wordByte s.din[w + 2] 2 := by simp only [hword]
      _ = wordByte (transformDin shiftRows s).dout[w] 2 := (wordByte_shiftRows s w 2).symm
  · rw [wordByte_inverseShiftRows, hrows, hrows w]

/-! ### The statements on columns -/

theorem exec_mixColumns (s : State) : exec .mixColumns s = .next (transformDin mixColumns s) := rfl

theorem exec_invMixColumns (s : State) : exec .invMixColumns s = .next (transformDin inverseMixColumns s) := rfl

/-- Settles O34: the template with `mixColumns`, the circulant of `2, 3, 1, 1`. -/
theorem mixColumnsCommand : Obligations.MixColumnsCommand := by
  refine ⟨rfl, by decide, fun s => ⟨_, exec_mixColumns s, fun w i => ?_, transformDin_frame _ s⟩, mixColumn_constant 0,
    mixColumn_constant, mixColumns_combine, dout_of_din exec_mixColumns (by decide +kernel)⟩
  simp only [wordByte_transformDin, entry_mixColumns, entry_load_dinBlock]

/-- Settles O35: the template with `inverseMixColumns`, the circulant of `14, 11, 13, 9`, which undoes `mixColumns`. -/
theorem invMixColumnsCommand : Obligations.InvMixColumnsCommand := by
  refine ⟨rfl, by decide, fun s => ⟨_, exec_invMixColumns s, fun w i => ?_, transformDin_frame _ s⟩,
    inverseMixColumn_constant 0, inverseMixColumn_constant,
    exec_undoes exec_mixColumns exec_invMixColumns inverseMixColumns_mixColumns,
    dout_of_din exec_invMixColumns (by decide +kernel)⟩
  simp only [wordByte_transformDin, entry_inverseMixColumns, entry_load_dinBlock]

/-! ### The statement on ADD_ROUND_KEY -/

/-- With a key and an index the schedule and the store have, ADD_ROUND_KEY is the template with that round key (R162). -/
theorem exec_addRoundKey_of_le {s : State} {idx : Fin 15} (hk : s.status.keyValid = true) (hn : idx.val ≤ s.nr.toNat) :
    exec (.addRoundKey idx.val) s = .next (transformDin (combine · s.rk[idx]) s) := by
  have hkey : s.rk.toList.getD idx.val zeroMatrix = s.rk[idx] := by simp [List.getD_eq_getElem?_getD]
  rw [show exec (.addRoundKey idx.val) s = execAddRoundKey idx.val s from rfl, execAddRoundKey,
    requireKey_of_valid _ hk, if_neg (by omega), if_pos idx.isLt]
  simp only [addRoundKey, hkey]

theorem decode_addRoundKey (idx : Nat) (h : idx ≤ 15) :
    decode (0x00000026#32 ||| (BitVec.ofNat 32 idx <<< 16)) = .ok (.addRoundKey idx) := by
  interval_cases idx <;> decide

/-- The bytes of the first `n` key registers are the first `4n` key bytes (R37). -/
theorem take_flatMap_wordBytes (ws : List Word) (n : Nat) :
    (ws.flatMap wordBytes).take (4 * n) = (ws.take n).flatMap wordBytes := by
  induction ws generalizing n with
  | nil => simp
  | cons w ws ih =>
    cases n with
    | zero => rfl
    | succ n => simpa [Nat.mul_succ, wordBytes] using ih n

/-- A stored schedule holds its matrices in order (R186). -/
theorem getElem_storeSchedule_rk {rks : List ByteMatrix} {i : Fin 15} {M : ByteMatrix} (h : rks[i.val]? = some M)
    (nr : Nat) (s : State) : (storeSchedule rks nr s).rk[i] = M := by
  obtain ⟨hlt, rfl⟩ := List.getElem?_eq_some_iff.mp h
  simp [storeSchedule, hlt, List.getD_eq_getElem?_getD]

/-- After a KEY_EXPAND of the 16-byte key `ws` ADD_ROUND_KEY adds the matrix of the schedule that `ws` has at its index. -/
theorem addRoundKey_after_keyExpand {s t : State} {ws : List Word} {d o : Vector Word 4} (idx : Fin 15)
    (hsize : s.ctrl.keysize = 0b00#2) (hws : s.key.toList.take 4 = ws) (ht : exec .keyExpand s = .next t)
    (hidx : idx.val ≤ 10) (hd : s.din = d)
    (ho : (expand (ws.flatMap wordBytes) 1 10)[idx.val]?.map
      (fun M => wordsOfBlock (serialize (combine (load (blockOfWords d)) M))) = some o) :
    ∃ u, exec (.addRoundKey idx.val) t = .next u ∧ u.dout = o := by
  have hparams : keySizeParams s.ctrl.keysize = some (1, 10) := by rw [hsize]; rfl
  obtain rfl : expandKey 1 10 s = t := Host.Outcome.next.inj ((exec_keyExpand_of_some hparams).symm.trans ht)
  obtain ⟨M, hM, rfl⟩ := Option.map_eq_some_iff.mp ho
  have hsched : (scheduleOfKey s.key 1 10)[idx.val]? = some M := by
    rw [scheduleOfKey, keyBytes, show 16 * 1 = 4 * 4 from rfl, take_flatMap_wordBytes, hws, hM]
  have hrk : (expandKey 1 10 s).rk[idx] = M := getElem_storeSchedule_rk hsched 10 s
  refine ⟨_, exec_addRoundKey_of_le rfl hidx, ?_⟩
  rw [transformDin_dout, hrk, dinBlock, exec_din ht, hd]

/-- Settles O36: the template with the round key when both checks pass, and the errors of the two checks in their order. -/
theorem addRoundKeyCommand : Obligations.AddRoundKeyCommand := by
  refine ⟨fun idx h => ⟨rfl, decode_addRoundKey idx h⟩,
    fun s idx hk hn => ⟨_, exec_addRoundKey_of_le hk hn, fun w i => ?_, transformDin_frame _ s, fun hzero => ?_,
      fun hsame => ?_⟩,
    fun s idx hk hn => ?_, fun s idx hk => ?_, fun s t hsize hkey ht => ⟨fun hd => ?_, fun hd => ?_⟩⟩
  · rw [wordByte_transformDin, entry_combine, entry_load_dinBlock]
  · have hload : load (blockOfWords (Vector.replicate 4 0)) = zeroMatrix := by decide +kernel
    rw [load_dout_transformDin, dinBlock, hzero, hload, combine_comm, combine_zeroMatrix]
  · have hwords : wordsOfBlock (serialize zeroMatrix) = Vector.replicate 4 0 := by decide +kernel
    rw [transformDin_dout, hsame, combine_self, hwords]
  · rw [exec_addRoundKey_of_gt hk hn, raise, statusRaised, hk]
    rfl
  · rw [exec_of_noKey (.inr (.inr (.inr ⟨idx, rfl⟩))) hk, raise, statusRaised, hk]
    rfl
  · exact addRoundKey_after_keyExpand 0 hsize hkey ht (by decide) hd (by decide +kernel)
  · exact addRoundKey_after_keyExpand 10 hsize hkey ht (by decide) hd (by decide +kernel)

end Sys2Proof.Machine
end

section
/-! PROOFS. The Key Schedule Generator (spec/42_key_schedule.md R183 to R187).  The loop of R184 appends one matrix at a time,
each made from the matrix `nb` back and the one before it; so the whole sequence obeys that recurrence matrix by matrix
(`getD_expand`), and the word form is the recurrence read column by column. -/

namespace Sys2Proof.Machine

/-! ### The recurrence on matrices -/

/-- The running word with which the matrix `i` of the schedule starts, from the matrix before it (R184). -/
def startWord (nb i : Nat) (prev : ByteMatrix) : Column :=
  if i % nb = 0 then firstWord (column prev 3) (i / nb) else subCol (column prev 3)

/-- The matrix `i` of the schedule, from the matrices before it (R184). -/
def nextRoundKey (nb i : Nat) (rk : List ByteMatrix) : ByteMatrix :=
  chainColumns (rk.getD (i - nb) zeroMatrix) (startWord nb i (rk.getD (i - 1) zeroMatrix))

/-- Every matrix after the seed is made from those before it. -/
def FollowsSchedule (nb : Nat) (rk : List ByteMatrix) : Prop :=
  ∀ i, nb ≤ i → i < rk.length → rk.getD i zeroMatrix = nextRoundKey nb i rk

/-- `nextRoundKey` reads only matrices below `i`, so appending to them does not change it. -/
theorem nextRoundKey_append {nb i : Nat} {rk : List ByteMatrix} (hnb : 0 < nb) (hi : 0 < i) (hlen : i ≤ rk.length)
    (rest : List ByteMatrix) : nextRoundKey nb i (rk ++ rest) = nextRoundKey nb i rk := by
  rw [nextRoundKey, List.getD_append _ _ _ _ (by omega), List.getD_append _ _ _ _ (by omega), nextRoundKey]

theorem FollowsSchedule.snoc {nb : Nat} {rk : List ByteMatrix} (hnb : 0 < nb) (h : FollowsSchedule nb rk) :
    FollowsSchedule nb (rk ++ [nextRoundKey nb rk.length rk]) := by
  intro i hi hlt
  rw [List.length_append, List.length_singleton] at hlt
  rw [nextRoundKey_append hnb (by omega) (by omega)]
  rcases Nat.lt_succ_iff_lt_or_eq.mp hlt with hold | rfl
  · rw [List.getD_append _ _ _ _ hold, h i hi hold]
  · simp [List.getD_eq_getElem?_getD]

/-- One turn of the outer loop: before the matrix `m + 1` the expansion counter is `m / nb`, the number of multiples of `nb`
met so far. -/
theorem expandLoop_succ (nb n m : Nat) (rk : List ByteMatrix) : expandLoop nb (n + 1) (m + 1) (m / nb) rk =
    expandLoop nb n (m + 2) ((m + 1) / nb) (rk ++ [nextRoundKey nb (m + 1) rk]) := by
  by_cases h : (m + 1) % nb = 0
  · rw [expandLoop, if_pos h, nextRoundKey, startWord, if_pos h, Nat.succ_div_of_dvd (Nat.dvd_of_mod_eq_zero h)]
  · rw [expandLoop, if_neg h, nextRoundKey, startWord, if_neg h,
      Nat.succ_div_of_not_dvd (mt Nat.mod_eq_zero_of_dvd h)]

/-- The loop keeps the matrices it starts from, appends `n` more, and keeps the recurrence. -/
theorem expandLoop_spec {nb : Nat} (hnb : 0 < nb) (n m : Nat) (rk : List ByteMatrix) (hlen : rk.length = m + 1)
    (h : FollowsSchedule nb rk) :
    rk <+: expandLoop nb n (m + 1) (m / nb) rk ∧ (expandLoop nb n (m + 1) (m / nb) rk).length = m + 1 + n ∧
      FollowsSchedule nb (expandLoop nb n (m + 1) (m / nb) rk) := by
  induction n generalizing m rk with
  | zero => exact ⟨List.prefix_refl rk, hlen, h⟩
  | succ n ih =>
    have hsnoc : FollowsSchedule nb (rk ++ [nextRoundKey nb (m + 1) rk]) := hlen ▸ h.snoc hnb
    obtain ⟨hprefix, hlength, hfollows⟩ := ih (m + 1) _ (by simp [hlen]) hsnoc
    rw [expandLoop_succ]
    exact ⟨(List.prefix_append rk _).trans hprefix, hlength.trans (by omega), hfollows⟩

@[simp] theorem length_seedKeys (k : List Byte) (nb : Nat) : (seedKeys k nb).length = nb := by
  simp [seedKeys]

/-- `expand` keeps the seed, has `nr + 1` matrices, and follows the recurrence. -/
theorem expand_spec {nb nr : Nat} (hnb : 0 < nb) (hnr : nb ≤ nr) (k : List Byte) :
    seedKeys k nb <+: expand k nb nr ∧ (expand k nb nr).length = nr + 1 ∧ FollowsSchedule nb (expand k nb nr) := by
  have hseed : FollowsSchedule nb (seedKeys k nb) := fun i hi hlt => by
    rw [length_seedKeys] at hlt
    omega
  have hspec := expandLoop_spec hnb (nr + 1 - nb) (nb - 1) (seedKeys k nb) (by simp; omega) hseed
  rw [Nat.div_eq_of_lt (by omega : nb - 1 < nb), show nb - 1 + 1 = nb by omega,
    show nb + (nr + 1 - nb) = nr + 1 by omega] at hspec
  exact hspec

/-- The Round Key Sequence has one matrix more than there are rounds (R187). -/
theorem length_expand {nb nr : Nat} (hnb : 0 < nb) (hnr : nb ≤ nr) (k : List Byte) :
    (expand k nb nr).length = nr + 1 := by
  obtain ⟨-, hlength, -⟩ := expand_spec hnb hnr k
  exact hlength

/-- The first `nb` matrices are the blocks of the key (R183). -/
theorem getD_expand_seed {nb nr m : Nat} (hnr : nb ≤ nr) (k : List Byte) (hm : m < nb) :
    (expand k nb nr).getD m zeroMatrix = load (blockAt k m) := by
  obtain ⟨⟨rest, hrest⟩, -, -⟩ := expand_spec (by omega) hnr k
  rw [← hrest, List.getD_append _ _ _ _ (by simpa using hm)]
  simp [seedKeys, List.getD_eq_getElem?_getD, hm]

/-- The matrices after the seed are made from those before them (R184). -/
theorem getD_expand {nb nr i : Nat} (hnb : 0 < nb) (hnr : nb ≤ nr) (k : List Byte) (hi : nb ≤ i) (hlt : i ≤ nr) :
    (expand k nb nr).getD i zeroMatrix = nextRoundKey nb i (expand k nb nr) := by
  obtain ⟨-, hlength, hfollows⟩ := expand_spec hnb hnr k
  exact hfollows i hi (by omega)

/-! ### The recurrence on words -/

/-- `W[4i+j]` is column `j` of matrix `i` (R185). -/
theorem scheduleWord_mul_add (rk : List ByteMatrix) (i : Nat) (j : Fin 4) :
    scheduleWord rk (4 * i + j.val) = column (rk.getD i zeroMatrix) j := by
  have hdiv : (4 * i + j.val) / 4 = i := by omega
  have hmod : Fin.ofNat 4 ((4 * i + j.val) % 4) = j := Fin.ext (by simp)
  rw [scheduleWord, hdiv, hmod]

/-- Column 0 of a new matrix takes the running word it starts from, and each later column takes the one before (R184). -/
theorem column_chainColumns_zero (back : ByteMatrix) (w : Column) :
    column (chainColumns back w) 0 = xorCol (column back 0) w := rfl

theorem column_chainColumns_succ (back : ByteMatrix) (w : Column) (j : Fin 3) :
    column (chainColumns back w) j.succ = xorCol (column back j.succ) (column (chainColumns back w) j.castSucc) := by
  fin_cases j <;> rfl

/-- The first word of a key-length block adds the round constant to the first byte only (R184, R185). -/
theorem firstWord_eq_xorCol (w : Column) (cnt : Nat) :
    firstWord w cnt = xorCol (subCol (rotCol w)) ⟨rc cnt, 0, 0, 0⟩ := by
  simp [firstWord, xorCol]

/-- A word inside a matrix is the word `4nb` back XOR the word before it (R185). -/
theorem scheduleWord_expand_inner {nb nr i : Nat} (hnb : 0 < nb) (hnr : nb ≤ nr) (k : List Byte) (hi : nb ≤ i)
    (hlt : i ≤ nr) (j : Fin 3) : scheduleWord (expand k nb nr) (4 * i + (j.val + 1)) =
      xorCol (scheduleWord (expand k nb nr) (4 * (i - nb) + (j.val + 1)))
        (scheduleWord (expand k nb nr) (4 * i + j.val)) := by
  have hnext := scheduleWord_mul_add (expand k nb nr) i j.succ
  have hback := scheduleWord_mul_add (expand k nb nr) (i - nb) j.succ
  have hprev := scheduleWord_mul_add (expand k nb nr) i j.castSucc
  rw [getD_expand hnb hnr k hi hlt] at hnext hprev
  exact hnext.trans ((column_chainColumns_succ _ _ j).trans (congrArg₂ xorCol hback.symm hprev.symm))

/-- The first word of a matrix is the word `4nb` back XOR the word before it, transformed (R185). -/
theorem scheduleWord_expand_first {nb nr i : Nat} (hnb : 0 < nb) (hnr : nb ≤ nr) (k : List Byte) (hi : nb ≤ i)
    (hlt : i ≤ nr) : scheduleWord (expand k nb nr) (4 * i) =
      xorCol (scheduleWord (expand k nb nr) (4 * (i - nb)))
        (if i % nb = 0 then
          xorCol (subCol (rotCol (scheduleWord (expand k nb nr) (4 * (i - 1) + 3)))) ⟨rc (i / nb), 0, 0, 0⟩
        else subCol (scheduleWord (expand k nb nr) (4 * (i - 1) + 3))) := by
  have hnext := scheduleWord_mul_add (expand k nb nr) i 0
  have hback := scheduleWord_mul_add (expand k nb nr) (i - nb) 0
  have hprev := scheduleWord_mul_add (expand k nb nr) (i - 1) 3
  rw [getD_expand hnb hnr k hi hlt] at hnext
  rw [← firstWord_eq_xorCol, show 4 * (i - 1) + 3 = 4 * (i - 1) + (3 : Fin 4).val from rfl, hprev]
  exact hnext.trans (congrArg (xorCol · _) hback.symm)

/-- Byte `r` of the word `W[t]` of the seed is byte `4t + r` of the key (R183, R185). -/
theorem getElem?_key_of_seed {nb nr t : Nat} (hnr : nb ≤ nr) {k : List Byte} (hk : k.length = 16 * nb) (ht : t < 4 * nb)
    (r : Fin 4) : k[4 * t + r.val]? = some (colByte (scheduleWord (expand k nb nr) t) r) := by
  have hword := scheduleWord_mul_add (expand k nb nr) (t / 4) ⟨t % 4, by omega⟩
  rw [getD_expand_seed hnr k (by omega), Nat.div_add_mod] at hword
  have hindex : 16 * (t / 4) + (4 * (t % 4) + r.val) = 4 * t + r.val := by omega
  have hbyte : 4 * t + r.val < k.length := by omega
  rw [hword, ← entry, entry_load]
  simp [blockAt, hindex, hbyte]

/-- Settles O53: the recurrence on matrices, read at the first column of a matrix and at the three others. -/
theorem scheduleInWordForm : Obligations.ScheduleInWordForm := by
  intro k nb nr hsize hk
  have hnb : 0 < nb := by omega
  have hnr : nb ≤ nr := by omega
  refine ⟨length_expand hnb hnr k, fun t ht r => getElem?_key_of_seed hnr hk ht r, fun t hlo hhi => ?_⟩
  obtain ⟨i, rfl | ⟨j, rfl⟩⟩ : ∃ i, t = 4 * i ∨ ∃ j : Fin 3, t = 4 * i + (j.val + 1) :=
    ⟨t / 4, (Nat.eq_zero_or_pos (t % 4)).imp (by omega) fun h => ⟨⟨t % 4 - 1, by omega⟩, by simp; omega⟩⟩
  · have hmul : 4 * i % (4 * nb) = 0 ↔ i % nb = 0 := by rw [Nat.mul_mod_mul_left]; omega
    have hhalf : i % nb ≠ 0 → 4 * nb = 8 ∧ 4 * i % (4 * nb) = 4 := by
      rcases hsize with ⟨rfl, -⟩ | ⟨rfl, -⟩ <;> omega
    rw [scheduleWord_expand_first hnb hnr k (by omega) (by omega), Nat.mul_div_mul_left _ _ (by decide : 0 < 4),
      show 4 * i - 4 * nb = 4 * (i - nb) by omega, show 4 * i - 1 = 4 * (i - 1) + 3 by omega]
    by_cases h : i % nb = 0
    · rw [if_pos h, if_pos (hmul.mpr h)]
    · rw [if_neg h, if_neg (mt hmul.mp h), if_pos (hhalf h)]
  · obtain ⟨hfirst, hhalf⟩ : (4 * i + (j.val + 1)) % (4 * nb) ≠ 0 ∧
        ¬(4 * nb = 8 ∧ (4 * i + (j.val + 1)) % (4 * nb) = 4) := by
      rcases hsize with ⟨rfl, -⟩ | ⟨rfl, -⟩ <;> omega
    rw [scheduleWord_expand_inner hnb hnr k (by omega) (by omega), if_neg hfirst, if_neg hhalf,
      show 4 * i + (j.val + 1) - 4 * nb = 4 * (i - nb) + (j.val + 1) by omega,
      show 4 * i + (j.val + 1) - 1 = 4 * i + j.val by omega]

end Sys2Proof.Machine
end

section
/-! PROOFS. KEY_EXPAND (spec/42_key_schedule.md R186; spec/60_exceptions.md R276).  For a legal key size the command is
`expandKey`, and the first `nr + 1` entries of RK after it are the schedule of the key (`take_rk_expandKey`); every clause
about RK follows from that. -/

namespace Sys2Proof.Machine

/-- What KEYSIZE selects: 1 key block and 10 rounds, or 2 key blocks and 14 rounds (R186). -/
theorem keySizeParams_eq_some_iff (c : BitVec 2) (nb nr : Nat) : keySizeParams c = some (nb, nr) ↔
    (c = 0b00#2 ∧ nb = 1 ∧ nr = 10) ∨ (c = 0b10#2 ∧ nb = 2 ∧ nr = 14) := by
  have hcode : ∀ c : BitVec 2, c = 0b00#2 ∨ c = 0b01#2 ∨ c = 0b10#2 ∨ c = 0b11#2 := by decide
  rcases hcode c with rfl | rfl | rfl | rfl <;> simp [keySizeParams, eq_comm]

/-- A schedule that fits the store is read back from its first entries (R186). -/
theorem take_storeSchedule_rk {rks : List ByteMatrix} (h : rks.length ≤ 15) (nr : Nat) (s : State) :
    (storeSchedule rks nr s).rk.toList.take rks.length = rks := by
  refine List.ext_getElem (by simpa using h) fun i hi hlt => ?_
  have hstored := getElem_storeSchedule_rk (i := ⟨i, by omega⟩) (List.getElem?_eq_getElem hlt) nr s
  simpa using hstored

@[simp] theorem expandKey_key (nb nr : Nat) (s : State) : (expandKey nb nr s).key = s.key := by simp [expandKey]

@[simp] theorem expandKey_ctrl (nb nr : Nat) (s : State) : (expandKey nb nr s).ctrl = s.ctrl := by simp [expandKey]

@[simp] theorem expandKey_cv (nb nr : Nat) (s : State) : (expandKey nb nr s).cv = zeroMatrix := rfl

@[simp] theorem expandKey_status (nb nr : Nat) (s : State) :
    (expandKey nb nr s).status = { s.status with keyValid := true, busy := false, done := true } := rfl

/-- Nothing but RK, NR, CV, STATUS and the draw counter changes (R186). -/
theorem expandKey_frame (nb nr : Nat) (s : State) : expandKey nb nr s =
    { s with rk := (expandKey nb nr s).rk, nr := (expandKey nb nr s).nr, cv := (expandKey nb nr s).cv,
             status := (expandKey nb nr s).status, draws := (expandKey nb nr s).draws } := by
  cases s
  rfl

/-- After KEY_EXPAND the first `nr + 1` entries of RK are the schedule of the key (R186). -/
theorem take_rk_expandKey {s : State} {nb nr : Nat} (h : keySizeParams s.ctrl.keysize = some (nb, nr)) :
    (expandKey nb nr s).rk.toList.take (nr + 1) = scheduleOfKey s.key nb nr := by
  have hsize := (keySizeParams_eq_some_iff _ _ _).mp h
  have hlen : (scheduleOfKey s.key nb nr).length = nr + 1 := length_expand (by omega) (by omega) _
  have hstored := take_storeSchedule_rk (rks := scheduleOfKey s.key nb nr) (by omega) nr s
  rwa [hlen] at hstored

/-- NR holds the number of rounds (R186). -/
theorem nr_expandKey {s : State} {nb nr : Nat} (h : keySizeParams s.ctrl.keysize = some (nb, nr)) :
    (expandKey nb nr s).nr.toNat = nr := by
  rcases (keySizeParams_eq_some_iff _ _ _).mp h with ⟨-, rfl, rfl⟩ | ⟨-, rfl, rfl⟩ <;> rfl

/-- The schedule of a 128-bit key reads KEY0..KEY3 only (R186). -/
theorem scheduleOfKey_one (key : Vector Word 8) (nr : Nat) :
    scheduleOfKey key 1 nr = expand ((key.toList.take 4).flatMap wordBytes) 1 nr := by
  rw [scheduleOfKey, keyBytes, show 16 * 1 = 4 * 4 from rfl, take_flatMap_wordBytes]

/-- Two key register sets that agree on KEY0..KEY3 have the same first four words. -/
theorem take_key_congr {key key' : Vector Word 8} (h : ∀ w : Fin 8, w.val < 4 → key[w] = key'[w]) :
    key.toList.take 4 = key'.toList.take 4 := by
  refine List.ext_getElem (by simp) fun i hi _ => ?_
  have hlt : i < 4 := by simpa using hi
  simpa using h ⟨i, by omega⟩ hlt

/-- A successful KEY_EXPAND completes as R186 says, with RK, NR and CV determined and everything else but STATUS unchanged. -/
theorem keyExpand_completes {s : State} {nb nr : Nat} (h : keySizeParams s.ctrl.keysize = some (nb, nr)) :
    ∃ t, exec .keyExpand s = .next t ∧
      t.rk.toList.take (nr + 1) = expand ((keyBytes s.key).take (16 * nb)) nb nr ∧
      t.nr.toNat = nr ∧ t.cv = zeroMatrix ∧
      t.status = { s.status with keyValid := true, busy := false, done := true } ∧
      t = { s with rk := t.rk, nr := t.nr, cv := t.cv, status := t.status, draws := t.draws } :=
  ⟨_, exec_keyExpand_of_some h, take_rk_expandKey h, nr_expandKey h, expandKey_cv nb nr s,
    expandKey_status nb nr s, expandKey_frame nb nr s⟩

/-- Repeating KEY_EXPAND gives the same round keys, or the first one has raised E_KEYSIZE. -/
theorem keyExpand_repeat {s t u : State} (ht : exec .keyExpand s = .next t) (hu : exec .keyExpand t = .next u) :
    u.rk.toList.take (t.nr.toNat + 1) = t.rk.toList.take (t.nr.toNat + 1) ∨ t.status.errcode = 2 := by
  cases hp : keySizeParams s.ctrl.keysize with
  | none =>
    obtain rfl : raise .keySize s = t := Host.Outcome.next.inj ((exec_keyExpand_of_none hp).symm.trans ht)
    exact .inr rfl
  | some p =>
    obtain ⟨nb, nr⟩ := p
    obtain rfl : expandKey nb nr s = t := Host.Outcome.next.inj ((exec_keyExpand_of_some hp).symm.trans ht)
    have hp' : keySizeParams (expandKey nb nr s).ctrl.keysize = some (nb, nr) := by rwa [expandKey_ctrl]
    obtain rfl := Host.Outcome.next.inj ((exec_keyExpand_of_some hp').symm.trans hu)
    refine .inl ?_
    rw [nr_expandKey hp, take_rk_expandKey hp', take_rk_expandKey hp, expandKey_key]

/-- Entry `i` of RK after KEY_EXPAND of the 16-byte key `ws`, as four register words. -/
theorem rk_expandKey_of_key {s : State} {ws : List Word} {o : Vector Word 4} (i : Fin 15)
    (hws : s.key.toList.take 4 = ws)
    (ho : (expand (ws.flatMap wordBytes) 1 10)[i.val]?.map (fun M => wordsOfBlock (serialize M)) = some o) :
    wordsOfBlock (serialize (expandKey 1 10 s).rk[i]) = o := by
  obtain ⟨M, hM, rfl⟩ := Option.map_eq_some_iff.mp ho
  have hsched : (scheduleOfKey s.key 1 10)[i.val]? = some M := by rw [scheduleOfKey_one, hws, hM]
  exact congrArg (wordsOfBlock ∘ serialize) (getElem_storeSchedule_rk hsched 10 s)

/-- Settles O25: KEY_EXPAND is `expandKey` for the two legal key sizes and E_KEYSIZE for the others. -/
theorem keyExpandCommand : Obligations.KeyExpandCommand := by
  have h128 : ∀ s : State, s.ctrl.keysize = 0b00#2 → keySizeParams s.ctrl.keysize = some (1, 10) := fun s h =>
    (keySizeParams_eq_some_iff _ _ _).mpr (.inl ⟨h, rfl, rfl⟩)
  refine ⟨rfl, by decide, fun s nb nr h => keyExpand_completes ((keySizeParams_eq_some_iff _ _ _).mpr h),
    fun s h => exec_keyExpand_of_none ((keySizeParams_eq_none_iff _).mpr h),
    fun s s' t t' h h' hkey ht ht' => ?_, fun s t u => keyExpand_repeat,
    fun s h hkey => ⟨_, exec_keyExpand_of_some (h128 s h), rfl, rfl,
      rk_expandKey_of_key 1 hkey (by decide +kernel), rk_expandKey_of_key 10 hkey (by decide +kernel)⟩⟩
  obtain rfl := Host.Outcome.next.inj ((exec_keyExpand_of_some (h128 s h)).symm.trans ht)
  obtain rfl := Host.Outcome.next.inj ((exec_keyExpand_of_some (h128 s' h')).symm.trans ht')
  calc (expandKey 1 10 s).rk.toList.take 11
    _ = scheduleOfKey s.key 1 10 := take_rk_expandKey (h128 s h)
    _ = scheduleOfKey s'.key 1 10 := by rw [scheduleOfKey_one, scheduleOfKey_one, take_key_congr hkey]
    _ = (expandKey 1 10 s').rk.toList.take 11 := (take_rk_expandKey (h128 s' h')).symm

end Sys2Proof.Machine
end

section
/-! The round engine (spec/43_round_engine.md R210, R211, R213).  A middle round of the inverse cipher undoes a middle round
of the cipher only up to where the round is cut: the one begins at the other's `shiftRows (substitute S)`. -/

namespace Sys2Proof.Machine

theorem addRoundKey_addRoundKey (S : ByteMatrix) (rk : List ByteMatrix) (i : Nat) :
    addRoundKey (addRoundKey S rk i) rk i = S := combine_combine S _

theorem inverseSubstitute_inverseShiftRows_shiftRows_substitute (S : ByteMatrix) :
    inverseSubstitute (inverseShiftRows (shiftRows (substitute S))) = S := by
  rw [inverseShiftRows_shiftRows, inverseSubstitute_substitute]

theorem shiftRows_substitute_inverseSubstitute_inverseShiftRows (S : ByteMatrix) :
    shiftRows (substitute (inverseSubstitute (inverseShiftRows S))) = S := by
  rw [substitute_inverseSubstitute, shiftRows_inverseShiftRows]

/-- One middle round undone, between the states that follow `shiftRows`. -/
theorem invCipherRound_cipherRound (rk : List ByteMatrix) (S : ByteMatrix) (i : Nat) :
    invCipherRound rk (shiftRows (substitute (cipherRound rk S i))) i = shiftRows (substitute S) := by
  rw [invCipherRound, inverseSubstitute_inverseShiftRows_shiftRows_substitute, cipherRound, addRoundKey_addRoundKey,
    inverseMixColumns_mixColumns]

/-- One inverse middle round undone, between the states that follow `inverseSubstitute`. -/
theorem cipherRound_invCipherRound (rk : List ByteMatrix) (S : ByteMatrix) (i : Nat) :
    cipherRound rk (inverseSubstitute (inverseShiftRows (invCipherRound rk S i))) i =
      inverseSubstitute (inverseShiftRows S) := by
  rw [cipherRound, shiftRows_substitute_inverseSubstitute_inverseShiftRows, invCipherRound, mixColumns_inverseMixColumns,
    addRoundKey_addRoundKey]

/-- The middle rounds of `is` undone in the reverse order. -/
theorem foldl_invCipherRound_foldl_cipherRound (rk : List ByteMatrix) (is : List Nat) (S : ByteMatrix) :
    is.reverse.foldl (invCipherRound rk) (shiftRows (substitute (is.foldl (cipherRound rk) S))) =
      shiftRows (substitute S) := by
  induction is generalizing S with
  | nil => rfl
  | cons i is ih =>
    rw [List.reverse_cons, List.foldl_append, List.foldl_cons, List.foldl_cons, List.foldl_nil, ih,
      invCipherRound_cipherRound]

/-- The inverse middle rounds, run in the reverse of the order `is`, undone in the order `is`. -/
theorem foldl_cipherRound_foldl_invCipherRound (rk : List ByteMatrix) (is : List Nat) (S : ByteMatrix) :
    is.foldl (cipherRound rk) (inverseSubstitute (inverseShiftRows (is.reverse.foldl (invCipherRound rk) S))) =
      inverseSubstitute (inverseShiftRows S) := by
  induction is with
  | nil => rfl
  | cons i is ih =>
    rw [List.reverse_cons, List.foldl_append, List.foldl_cons, List.foldl_cons, List.foldl_nil,
      cipherRound_invCipherRound, ih]

theorem invCipher_cipher (S : ByteMatrix) (rk : List ByteMatrix) (nr : Nat) :
    invCipher (cipher S rk nr) rk nr = S := by
  simp only [invCipher, cipher, addRoundKey_addRoundKey, foldl_invCipherRound_foldl_cipherRound,
    inverseSubstitute_inverseShiftRows_shiftRows_substitute]

theorem cipher_invCipher (S : ByteMatrix) (rk : List ByteMatrix) (nr : Nat) :
    cipher (invCipher S rk nr) rk nr = S := by
  simp only [cipher, invCipher, addRoundKey_addRoundKey, foldl_cipherRound_foldl_invCipherRound,
    shiftRows_substitute_inverseSubstitute_inverseShiftRows]

/-- Settles O54: the outer key additions cancel, and the middle rounds are undone by induction on their list. -/
theorem ciphersAreInverse : Obligations.CiphersAreInverse :=
  fun S rk nr => ⟨invCipher_cipher S rk nr, cipher_invCipher S rk nr⟩

end Sys2Proof.Machine
end

section
/-! PROOFS. The block commands and CHAIN_RESET (spec/44_mode_layer.md R231 to R240).  Every block command that has its
key is one function of the input block and CV, with an output matrix and the next CV (`encryptStep`, `decryptStep`), and
ends in `finishBlock`; the modes differ in that function only. -/

namespace Sys2Proof.Machine

/-! ### One block -/

/-- The output matrix of an encrypted block and the chaining vector after it (R231, R232). -/
def encryptStep (m : Mode) (rk : List ByteMatrix) (nr : Nat) (x : Block) (V : ByteMatrix) : ByteMatrix × ByteMatrix :=
  match m with
  | .ecb => (cipher (load x) rk nr, V)
  | .cbc => (cipher (combine (load x) V) rk nr, cipher (combine (load x) V) rk nr)

/-- The output matrix of a decrypted block and the chaining vector after it (R231, R233). -/
def decryptStep (m : Mode) (rk : List ByteMatrix) (nr : Nat) (y : Block) (V : ByteMatrix) : ByteMatrix × ByteMatrix :=
  match m with
  | .ecb => (invCipher (load y) rk nr, V)
  | .cbc => (combine (invCipher (load y) rk nr) V, load y)

/-- A block command's end: DOUT and CV are written, and the command completes (R236, R237, R239). -/
def finishBlock (r : ByteMatrix × ByteMatrix) (s : State) : State :=
  complete (setDout (serialize r.1) (setCv r.2 s))

@[simp] theorem finishBlock_dout (r : ByteMatrix × ByteMatrix) (s : State) :
    (finishBlock r s).dout = wordsOfBlock (serialize r.1) := rfl

@[simp] theorem finishBlock_cv (r : ByteMatrix × ByteMatrix) (s : State) : (finishBlock r s).cv = r.2 := rfl

@[simp] theorem finishBlock_din (r : ByteMatrix × ByteMatrix) (s : State) : (finishBlock r s).din = s.din := rfl

@[simp] theorem finishBlock_ctrl (r : ByteMatrix × ByteMatrix) (s : State) : (finishBlock r s).ctrl = s.ctrl := rfl

/-- Nothing but DOUT, CV, BUSY and DONE changes. -/
theorem finishBlock_frame (r : ByteMatrix × ByteMatrix) (s : State) : finishBlock r s =
    { s with dout := (finishBlock r s).dout, cv := (finishBlock r s).cv,
             status := { s.status with busy := false, done := true } } := rfl

theorem load_dout_finishBlock (r : ByteMatrix × ByteMatrix) (s : State) :
    load (blockOfWords (finishBlock r s).dout) = r.1 := by
  rw [finishBlock_dout, blockOfWords_wordsOfBlock, load_serialize]

/-- DOUT determines the output matrix. -/
theorem wordsOfBlock_serialize_inj {S T : ByteMatrix} :
    wordsOfBlock (serialize S) = wordsOfBlock (serialize T) ↔ S = T := by
  refine ⟨fun h => ?_, fun h => h ▸ rfl⟩
  rw [← load_serialize S, ← blockOfWords_wordsOfBlock (serialize S), h, blockOfWords_wordsOfBlock, load_serialize]

theorem cipher_injective (rk : List ByteMatrix) (nr : Nat) : Function.Injective (cipher · rk nr) :=
  Function.LeftInverse.injective (g := (invCipher · rk nr)) fun S => invCipher_cipher S rk nr

theorem combine_left_injective (S : ByteMatrix) : Function.Injective (combine S) := fun T U h => by
  rw [← combine_combine T S, combine_comm T S, h, combine_comm S U, combine_combine]

/-- After `Z` a first block is encrypted alike in both modes (R236). -/
theorem encryptStep_zero (m m' : Mode) (rk : List ByteMatrix) (nr : Nat) (x : Block) :
    (encryptStep m rk nr x zeroMatrix).1 = (encryptStep m' rk nr x zeroMatrix).1 := by
  cases m <;> cases m' <;> simp [encryptStep]

/-- In CBC the output determines the chaining vector the block was combined with (R236). -/
theorem encryptStep_cbc_inj {rk : List ByteMatrix} {nr : Nat} {x : Block} {V W : ByteMatrix} :
    (encryptStep .cbc rk nr x V).1 = (encryptStep .cbc rk nr x W).1 ↔ V = W :=
  ((cipher_injective rk nr).comp (combine_left_injective (load x))).eq_iff

/-! ### The round keys a cipher reads -/

theorem addRoundKey_take {i n : Nat} (h : i < n) (S : ByteMatrix) (rk : List ByteMatrix) :
    addRoundKey S (rk.take n) i = addRoundKey S rk i := by
  simp [addRoundKey, List.getD_eq_getElem?_getD, List.getElem?_take_of_lt h]

/-- The cipher reads the first `nr + 1` round keys only (43_round_engine.md R210). -/
theorem cipher_take (S : ByteMatrix) (rk : List ByteMatrix) (nr : Nat) :
    cipher S (rk.take (nr + 1)) nr = cipher S rk nr := by
  have hround : ∀ T, ∀ i ∈ List.range' 1 (nr - 1), cipherRound (rk.take (nr + 1)) T i = cipherRound rk T i := by
    intro T i hi
    rw [List.mem_range'_1] at hi
    exact addRoundKey_take (by omega) _ rk
  simp only [cipher, addRoundKey_take (Nat.succ_pos nr), addRoundKey_take (Nat.lt_succ_self nr),
    List.foldl_ext _ _ _ hround]

/-- The inverse cipher reads the first `nr + 1` round keys only (43_round_engine.md R211). -/
theorem invCipher_take (S : ByteMatrix) (rk : List ByteMatrix) (nr : Nat) :
    invCipher S (rk.take (nr + 1)) nr = invCipher S rk nr := by
  have hround : ∀ T, ∀ i ∈ (List.range' 1 (nr - 1)).reverse,
      invCipherRound (rk.take (nr + 1)) T i = invCipherRound rk T i := by
    intro T i hi
    rw [List.mem_reverse, List.mem_range'_1] at hi
    exact congrArg inverseMixColumns (addRoundKey_take (by omega) _ rk)
  simp only [invCipher, addRoundKey_take (Nat.succ_pos nr), addRoundKey_take (Nat.lt_succ_self nr),
    List.foldl_ext _ _ _ hround]

theorem encryptStep_take (m : Mode) (rk : List ByteMatrix) (nr : Nat) (x : Block) (V : ByteMatrix) :
    encryptStep m (rk.take (nr + 1)) nr x V = encryptStep m rk nr x V := by
  cases m <;> simp only [encryptStep, cipher_take]

theorem decryptStep_take (m : Mode) (rk : List ByteMatrix) (nr : Nat) (y : Block) (V : ByteMatrix) :
    decryptStep m (rk.take (nr + 1)) nr y V = decryptStep m rk nr y V := by
  cases m <;> simp only [decryptStep, invCipher_take]

/-! ### The block commands -/

theorem encryptBlock_eq {s : State} (hn : s.nr = 10#4 ∨ s.nr = 14#4) (x : Block) : encryptBlock x s =
    .next (finishBlock (encryptStep s.ctrl.mode s.rk.toList s.nr.toNat x s.cv) s) := by
  rw [encryptBlock, if_pos ((roundsInDomain_iff _).mpr hn)]
  cases s.ctrl.mode <;> rfl

section
variable {s : State} (hk : s.status.keyValid = true) (hn : s.nr = 10#4 ∨ s.nr = 14#4)
include hk hn

/-- ENCRYPT with its key (R236). -/
theorem exec_encrypt_of_key : exec .encrypt s =
    .next (finishBlock (encryptStep s.ctrl.mode s.rk.toList s.nr.toNat (dinBlock s) s.cv) s) :=
  (requireKey_of_valid _ hk).trans (encryptBlock_eq hn _)

/-- ENCRYPT_FINAL with its key (R239). -/
theorem exec_encryptFinal_of_key (len : Nat) : exec (.encryptFinal len) s =
    .next (finishBlock (encryptStep s.ctrl.mode s.rk.toList s.nr.toNat (padBlock (dinBlock s) len) s.cv) s) :=
  (requireKey_of_valid _ hk).trans (encryptBlock_eq hn _)

/-- DECRYPT with its key (R237). -/
theorem exec_decrypt_of_key : exec .decrypt s =
    .next (finishBlock (decryptStep s.ctrl.mode s.rk.toList s.nr.toNat (dinBlock s) s.cv) s) := by
  rw [show exec .decrypt s = execDecrypt s from rfl, execDecrypt, requireKey_of_valid _ hk,
    if_pos ((roundsInDomain_iff _).mpr hn)]
  cases s.ctrl.mode <;> rfl

end

/-- An encryption that answers a next state had no key, or did its block. -/
theorem requireKey_encryptBlock_cases {x : Block} {s t : State} (h : requireKey s (encryptBlock x) = .next t) :
    (s.status.keyValid = false ∧ t = raise .noKey s) ∨
    (s.status.keyValid = true ∧
      t = finishBlock (encryptStep s.ctrl.mode s.rk.toList s.nr.toNat x s.cv) s) := by
  cases hk : s.status.keyValid with
  | false =>
    rw [requireKey_of_invalid _ hk] at h
    exact .inl ⟨rfl, (Host.Outcome.next.inj h).symm⟩
  | true =>
    rw [requireKey_of_valid _ hk] at h
    obtain ⟨hdom, -⟩ := encryptBlock_cases h
    rw [encryptBlock_eq ((roundsInDomain_iff _).mp hdom)] at h
    exact .inr ⟨rfl, (Host.Outcome.next.inj h).symm⟩

/-- The completion of a command that encrypts the block `x`, mode by mode (R236, R239). -/
theorem encrypt_completes {i : Instr} {x : Block} {s : State}
    (h : exec i s = .next (finishBlock (encryptStep s.ctrl.mode s.rk.toList s.nr.toNat x s.cv) s)) :
    (s.ctrl.mode = .ecb → ∃ t, exec i s = .next t ∧
      load (blockOfWords t.dout) = cipher (load x) s.rk.toList s.nr.toNat ∧
      t = { s with dout := t.dout, status := { s.status with busy := false, done := true } }) ∧
    (s.ctrl.mode = .cbc → ∃ t, exec i s = .next t ∧
      t.cv = cipher (combine (load x) s.cv) s.rk.toList s.nr.toNat ∧ load (blockOfWords t.dout) = t.cv ∧
      t = { s with dout := t.dout, cv := t.cv, status := { s.status with busy := false, done := true } }) := by
  refine ⟨fun hm => ?_, fun hm => ?_⟩ <;> rw [hm] at h
  · exact ⟨_, h, load_dout_finishBlock _ s, rfl⟩
  · exact ⟨_, h, rfl, load_dout_finishBlock _ s, finishBlock_frame _ s⟩

/-- Without a key a block command changes STATUS only (60_exceptions.md R277). -/
theorem exec_of_noKey_eq {i : Instr} {s : State} (hi : needsKey i) (hk : s.status.keyValid = false) :
    exec i s = .next { s with status :=
      { busy := false, done := true, err := true, keyValid := false, errcode := 3 } } := by
  rw [exec_of_noKey hi hk, raise, statusRaised, hk]
  rfl

/-- Two encryptions of one block after `Z` give the same DOUT, whatever CTRL holds. -/
theorem encrypt_dout_of_zero {s t u : State} (hcv : s.cv = zeroMatrix) (c c' : Ctrl)
    (ht : exec .encrypt { s with ctrl := c } = .next t) (hu : exec .encrypt { s with ctrl := c' } = .next u) :
    t.dout = u.dout := by
  rcases requireKey_encryptBlock_cases ht with ⟨hk, rfl⟩ | ⟨hk, rfl⟩ <;>
    rcases requireKey_encryptBlock_cases hu with ⟨hk', rfl⟩ | ⟨hk', rfl⟩
  · rfl
  · exact absurd (hk.symm.trans hk') (by decide)
  · exact absurd (hk.symm.trans hk') (by decide)
  · rw [finishBlock_dout, finishBlock_dout, hcv, encryptStep_zero c.mode c'.mode]
    rfl

theorem padBlock_congr {b b' : Block} {len : Nat} (h : ∀ p : Fin 16, p.val < len → b[p] = b'[p]) :
    padBlock b len = padBlock b' len := by
  ext1 p hp
  by_cases hlt : p < len
  · simpa [padBlock, hlt] using h ⟨p, hp⟩ hlt
  · simp [padBlock, hlt]

/-- ENCRYPT_FINAL reads the first LEN bytes of DIN only (R239). -/
theorem encryptFinal_din {s t u : State} {len : Nat} {d : Vector Word 4}
    (hd : ∀ p : Fin 16, p.val < len → (blockOfWords d)[p] = (dinBlock s)[p])
    (ht : exec (.encryptFinal len) s = .next t) (hu : exec (.encryptFinal len) { s with din := d } = .next u) :
    t.dout = u.dout ∧ t.cv = u.cv := by
  have hpad : padBlock (dinBlock { s with din := d }) len = padBlock (dinBlock s) len := padBlock_congr hd
  rcases requireKey_encryptBlock_cases ht with ⟨hk, rfl⟩ | ⟨hk, rfl⟩ <;>
    rcases requireKey_encryptBlock_cases hu with ⟨hk', rfl⟩ | ⟨hk', rfl⟩
  · exact ⟨rfl, rfl⟩
  · exact absurd (hk.symm.trans hk') (by decide)
  · exact absurd (hk.symm.trans hk') (by decide)
  · rw [hpad]
    exact ⟨rfl, rfl⟩

/-! ### Under an expanded key -/

/-- KEY_VALID is 1, and RK and NR hold the schedule `rk` of `nr` rounds (10_state.md R28, R40, R41). -/
structure HoldsKey (rk : List ByteMatrix) (nr : Nat) (s : State) : Prop where
  keyValid : s.status.keyValid = true
  inDomain : s.nr = 10#4 ∨ s.nr = 14#4
  rounds : s.nr.toNat = nr
  schedule : s.rk.toList.take (nr + 1) = rk

/-- A legal KEY_EXPAND leaves the schedule of the key registers (42_key_schedule.md R186). -/
theorem holdsKey_expandKey {s : State} {nb nr : Nat} (h : keySizeParams s.ctrl.keysize = some (nb, nr)) :
    HoldsKey (scheduleOfKey s.key nb nr) nr (expandKey nb nr s) where
  keyValid := rfl
  inDomain := by
    rcases (keySizeParams_eq_some_iff _ _ _).mp h with ⟨-, rfl, rfl⟩ | ⟨-, rfl, rfl⟩
    · exact .inl rfl
    · exact .inr rfl
  rounds := nr_expandKey h
  schedule := take_rk_expandKey h

section
variable {rk : List ByteMatrix} {nr : Nat} {s : State} (h : HoldsKey rk nr s)
include h

theorem HoldsKey.exec_encrypt : exec .encrypt s =
    .next (finishBlock (encryptStep s.ctrl.mode rk nr (dinBlock s) s.cv) s) := by
  rw [exec_encrypt_of_key h.keyValid h.inDomain, ← encryptStep_take, h.rounds, h.schedule]

theorem HoldsKey.exec_encryptFinal (len : Nat) : exec (.encryptFinal len) s =
    .next (finishBlock (encryptStep s.ctrl.mode rk nr (padBlock (dinBlock s) len) s.cv) s) := by
  rw [exec_encryptFinal_of_key h.keyValid h.inDomain, ← encryptStep_take, h.rounds, h.schedule]

theorem HoldsKey.exec_decrypt : exec .decrypt s =
    .next (finishBlock (decryptStep s.ctrl.mode rk nr (dinBlock s) s.cv) s) := by
  rw [exec_decrypt_of_key h.keyValid h.inDomain, ← decryptStep_take, h.rounds, h.schedule]

/-- A state with the same KEY_VALID, RK and NR holds the same schedule. -/
theorem HoldsKey.of_eq {t : State} (hk : t.status.keyValid = s.status.keyValid) (hn : t.nr = s.nr) (hr : t.rk = s.rk) :
    HoldsKey rk nr t :=
  ⟨hk.trans h.keyValid, by rw [hn]; exact h.inDomain, by rw [hn]; exact h.rounds, by rw [hr]; exact h.schedule⟩

theorem HoldsKey.finishBlock (r : ByteMatrix × ByteMatrix) : HoldsKey rk nr (finishBlock r s) := h.of_eq rfl rfl rfl

theorem HoldsKey.chainReset : HoldsKey rk nr (complete (setCv zeroMatrix s)) := h.of_eq rfl rfl rfl

end

/-- The schedule of the key `000102..0f` of 95_test_vectors.md W1. -/
def exampleSchedule : List ByteMatrix :=
  expand (([0x00010203, 0x04050607, 0x08090a0b, 0x0c0d0e0f] : List Word).flatMap wordBytes) 1 10

/-- KEY_EXPAND of that key leaves its schedule and `Z`, and keeps CTRL and DIN. -/
theorem keyExpand_example {s t : State} (hsize : s.ctrl.keysize = 0b00#2)
    (hkey : s.key.toList.take 4 = [0x00010203, 0x04050607, 0x08090a0b, 0x0c0d0e0f]) (ht : exec .keyExpand s = .next t) :
    HoldsKey exampleSchedule 10 t ∧ t.ctrl = s.ctrl ∧ t.din = s.din ∧ t.cv = zeroMatrix := by
  have hparams : keySizeParams s.ctrl.keysize = some (1, 10) := by rw [hsize]; rfl
  obtain rfl : expandKey 1 10 s = t := Host.Outcome.next.inj ((exec_keyExpand_of_some hparams).symm.trans ht)
  refine ⟨?_, expandKey_ctrl 1 10 s, exec_din ht, rfl⟩
  have hholds := holdsKey_expandKey hparams
  rwa [scheduleOfKey_one, hkey] at hholds

/-- The known answer of 95_test_vectors.md W1, in whichever mode it is a first block. -/
theorem encryptStep_example (m : Mode) : wordsOfBlock (serialize (encryptStep m exampleSchedule 10
    (blockOfWords #v[0x00112233, 0x44556677, 0x8899aabb, 0xccddeeff]) zeroMatrix).1) =
    #v[0x69c4e0d8, 0x6a7b0430, 0xd8cdb780, 0x70b4c55a] := by
  rw [encryptStep_zero m .ecb]
  decide +kernel

/-! ### The statements -/

/-- Settles O26: CHAIN_RESET sets CV to `Z`, and after `Z` the mode does not matter. -/
theorem chainResetCommand : Obligations.ChainResetCommand := by
  refine ⟨rfl, by decide, fun s => rfl, fun s t u v ht hu hv => ?_, fun s t u v hsize hm hkey hd ht hu hv => ?_⟩
  · obtain rfl : complete (setCv zeroMatrix s) = t := Host.Outcome.next.inj ht
    exact encrypt_dout_of_zero rfl _ _ hu hv
  · obtain ⟨hholds, hctrl, hdin, -⟩ := keyExpand_example hsize hkey ht
    obtain rfl := Host.Outcome.next.inj (hholds.exec_encrypt.symm.trans hu)
    obtain rfl : complete (setCv zeroMatrix _) = v := Host.Outcome.next.inj hv
    refine ⟨_, (hholds.finishBlock _).chainReset.exec_encrypt, ?_⟩
    simp only [finishBlock_dout, complete_cv, setCv_cv, dinBlock, complete_din, setCv_din, finishBlock_din, hdin, hd]
    exact encryptStep_example _

/-- Settles O27: the command is `encryptStep` on DIN and CV, and `cipher` and `combine` are injective. -/
theorem encryptCommand : Obligations.EncryptCommand := by
  refine ⟨rfl, by decide, fun s hk hn => encrypt_completes (exec_encrypt_of_key hk hn),
    fun s => exec_of_noKey_eq (.inl rfl), fun s t u hcv => encrypt_dout_of_zero hcv _ _,
    fun s t u V hm hk ht hu => ?_, fun s t hsize hkey hd ht => ?_⟩
  · rcases requireKey_encryptBlock_cases ht with ⟨hk', -⟩ | ⟨-, rfl⟩
    · exact absurd (hk'.symm.trans hk) (by decide)
    rcases requireKey_encryptBlock_cases hu with ⟨hk', -⟩ | ⟨-, rfl⟩
    · exact absurd (hk'.symm.trans hk) (by decide)
    rw [finishBlock_dout, finishBlock_dout, wordsOfBlock_serialize_inj, hm]
    exact encryptStep_cbc_inj
  · obtain ⟨hholds, hctrl, hdin, hcv⟩ := keyExpand_example hsize hkey ht
    refine ⟨_, hholds.exec_encrypt, ?_, fun hm => ⟨_, (hholds.finishBlock _).exec_encrypt, ?_⟩⟩
    · rw [finishBlock_dout, hcv, dinBlock, hdin, hd]
      exact encryptStep_example _
    · simp only [finishBlock_dout, finishBlock_cv, finishBlock_ctrl, finishBlock_din, dinBlock, hcv, hctrl, hm, hdin,
        hd]
      decide +kernel

/-- Settles O28: the command is `decryptStep` on DIN and CV. -/
theorem decryptCommand : Obligations.DecryptCommand := by
  refine ⟨rfl, by decide, fun s hk hn => ?_, fun s => exec_of_noKey_eq (.inr (.inl rfl)),
    fun s t hsize hm hkey hd ht => ?_⟩
  · have h := exec_decrypt_of_key hk hn
    refine ⟨fun hm => ?_, fun hm => ?_⟩ <;> simp only [hm, decryptStep] at h
    · exact ⟨_, h, load_dout_finishBlock _ s, rfl⟩
    · exact ⟨_, h, load_dout_finishBlock _ s, finishBlock_cv _ s, finishBlock_frame _ s⟩
  · obtain ⟨hholds, hctrl, hdin, hcv⟩ := keyExpand_example hsize hkey ht
    refine ⟨_, hholds.exec_decrypt, ?_⟩
    rw [finishBlock_dout, hcv, hctrl, hm, dinBlock, hdin, hd]
    decide +kernel

theorem decode_encryptFinal (len : Nat) (h : len ≤ 15) :
    decode (0x00000012#32 ||| (BitVec.ofNat 32 len <<< 8)) = .ok (.encryptFinal len) := by
  interval_cases len <;> decide

theorem padBlock_zero (b : Block) : padBlock b 0 = Vector.replicate 16 0x10#8 := by
  ext1 p hp
  simp [padBlock]

/-- The block of DIN `48656c6c 6fxxxxxx ..`, padded after 5 bytes (R239). -/
theorem padBlock_hello {d : Vector Word 4} (h0 : d[0] = 0x48656c6c#32) (h1 : d[1].extractLsb' 24 8 = 0x6f#8) :
    padBlock (blockOfWords d) 5 = padBlock (blockOfWords #v[0x48656c6c, 0x6f000000, 0, 0]) 5 := by
  refine padBlock_congr fun p hp => ?_
  rcases Nat.lt_succ_iff_lt_or_eq.mp hp with hlt | h4
  · have hdiv : p.val / 4 = 0 := by omega
    simp [hdiv, h0]
  · simpa [h4, wordByte] using h1

/-- Settles O29: the command is `encryptStep` on the padded block, which has no byte of DIN from LEN on. -/
theorem encryptFinalCommand : Obligations.EncryptFinalCommand := by
  refine ⟨fun len h => ⟨rfl, decode_encryptFinal len h⟩,
    fun s len h hk hn => encrypt_completes (exec_encryptFinal_of_key hk hn len),
    fun s len h => exec_of_noKey_eq (.inr (.inr (.inl ⟨len, rfl⟩))), fun s t u len d h => encryptFinal_din,
    padBlock_zero, fun b => by simp [padBlock], fun s t hsize hm hkey ht => ?_⟩
  obtain ⟨hholds, hctrl, hdin, hcv⟩ := keyExpand_example hsize hkey ht
  refine ⟨⟨_, hholds.exec_encryptFinal 0, ?_⟩, fun h0 h1 => ⟨_, hholds.exec_encryptFinal 5, ?_⟩⟩
  · rw [finishBlock_dout, hcv, hctrl, hm, padBlock_zero]
    decide +kernel
  · rw [finishBlock_dout, hcv, hctrl, hm, dinBlock, hdin, padBlock_hello h0 h1]
    decide +kernel

end Sys2Proof.Machine
end

section
/-! PROOFS. Padding and streams (spec/44_mode_layer.md R230 to R248).  A stream of either direction and mode is one loop
over whole blocks, `streamBlocks` of `encryptStep` or `decryptStep`; the statements are facts about that loop and about
cutting a sequence into blocks. -/

namespace Sys2Proof.Machine

/-! ### Whole blocks of a sequence -/

/-- A byte of a sequence is a byte of its block. -/
theorem getElem?_eq_blockAt {Q : List Byte} {j : Nat} (h : j < Q.length) :
    Q[j]? = some ((blockAt Q (j / 16))[j % 16]'(by omega)) := by
  simp [blockAt, Nat.div_add_mod, h]

theorem getElem_blockAt {Q : List Byte} {i p : Nat} {x : Byte} (hp : p < 16) (h : Q[16 * i + p]? = some x) :
    (blockAt Q i)[p] = x := by
  simp [blockAt, h]

theorem blockAt_congr {Q Q' : List Byte} {i : Nat} (h : ∀ p, p < 16 → Q[16 * i + p]? = Q'[16 * i + p]?) :
    blockAt Q i = blockAt Q' i := by
  ext1 p hp
  simp [blockAt, h p hp]

@[simp] theorem length_blocksOf (Q : List Byte) : (blocksOf Q).length = Q.length / 16 := by
  simp [blocksOf]

@[simp] theorem getElem_blocksOf (Q : List Byte) (i : Nat) (h : i < (blocksOf Q).length) :
    (blocksOf Q)[i] = blockAt Q i := by
  simp [blocksOf]

theorem getElem?_block_append_left (b : Block) (Q : List Byte) {p : Nat} (hp : p < 16) :
    (b.toList ++ Q)[p]? = some b[p] := by
  rw [List.getElem?_append_left (by simpa using hp), Vector.getElem?_toList, Vector.getElem?_eq_getElem hp]

theorem getElem?_block_append_right (b : Block) (Q : List Byte) (n : Nat) : (b.toList ++ Q)[n + 16]? = Q[n]? := by
  rw [List.getElem?_append_right (by simp), Vector.length_toList, Nat.add_sub_cancel]

theorem blockAt_append_zero (b : Block) (Q : List Byte) : blockAt (b.toList ++ Q) 0 = b := by
  ext1 p hp
  exact getElem_blockAt hp (by rw [Nat.mul_zero, Nat.zero_add, getElem?_block_append_left b Q hp])

theorem blockAt_append_succ (b : Block) (Q : List Byte) (i : Nat) :
    blockAt (b.toList ++ Q) (i + 1) = blockAt Q i := by
  ext1 p hp
  have hindex : 16 * (i + 1) + p = 16 * i + p + 16 := by omega
  simp only [blockAt, Vector.getElem_ofFn, List.getD_eq_getElem?_getD, hindex, getElem?_block_append_right]

theorem blocksOf_append (b : Block) (Q : List Byte) : blocksOf (b.toList ++ Q) = b :: blocksOf Q := by
  have hlen : (b.toList ++ Q).length / 16 = Q.length / 16 + 1 := by
    rw [List.length_append, Vector.length_toList]
    omega
  simp only [blocksOf, hlen, List.range_succ_eq_map, List.map_cons, List.map_map, Function.comp_def,
    blockAt_append_zero, blockAt_append_succ]

/-- Byte `16i + p` of a sequence of blocks is byte `p` of block `i`. -/
theorem getElem?_flatMap_toList (bs : List Block) (i p : Nat) (hp : p < 16) :
    (bs.flatMap Vector.toList)[16 * i + p]? = bs[i]?.map (·[p]) := by
  induction bs generalizing i with
  | nil => simp
  | cons b bs ih =>
    cases i with
    | zero =>
      rw [List.flatMap_cons, Nat.mul_zero, Nat.zero_add, getElem?_block_append_left b _ hp]
      rfl
    | succ i =>
      rw [List.flatMap_cons, show 16 * (i + 1) + p = 16 * i + p + 16 by omega, getElem?_block_append_right, ih,
        List.getElem?_cons_succ]

/-- A sequence of whole blocks is its blocks one after the other. -/
theorem flatMap_blocksOf {Q : List Byte} (h : Q.length % 16 = 0) : (blocksOf Q).flatMap Vector.toList = Q := by
  refine List.ext_getElem? fun j => ?_
  rw [← Nat.div_add_mod j 16, getElem?_flatMap_toList _ _ _ (by omega)]
  by_cases hj : j < Q.length
  · have hi : j / 16 < (blocksOf Q).length := by simp; omega
    rw [List.getElem?_eq_getElem hi, getElem_blocksOf, Nat.div_add_mod, getElem?_eq_blockAt hj]
    rfl
  · rw [List.getElem?_eq_none (by simp; omega), List.getElem?_eq_none (by omega)]
    rfl

theorem take_blocksOf (Q : List Byte) (j : Nat) : (blocksOf Q).take j = blocksOf (Q.take (16 * j)) := by
  refine List.ext_getElem (by simp; omega) fun i hi _ => ?_
  have hlt : i < j := by simp at hi; omega
  rw [List.getElem_take, getElem_blocksOf, getElem_blocksOf]
  exact blockAt_congr fun p hp => (List.getElem?_take_of_lt (by omega)).symm

/-! ### Padding (R230, R234) -/

theorem length_pad (P : List Byte) : (pad P).length = 16 * (P.length / 16 + 1) := by
  simp [pad]
  omega

/-- The blocks of `pad(P)`: the whole blocks of `P`, and the padded block of its last bytes. -/
theorem blocksOf_pad {P : List Byte} {b : Block}
    (hb : ∀ p : Fin 16, p.val < P.length % 16 → P[P.length - P.length % 16 + p.val]? = some b[p]) :
    blocksOf (pad P) = (List.range (P.length / 16)).map (blockAt P) ++ [padBlock b (P.length % 16)] := by
  have hlen : (pad P).length / 16 = P.length / 16 + 1 := by rw [length_pad]; omega
  rw [blocksOf, hlen, List.range_succ, List.map_append, List.map_singleton]
  refine congrArg₂ _ (List.map_congr_left fun i hi => blockAt_congr fun p hp => ?_) (List.singleton_inj.mpr ?_)
  · rw [List.mem_range] at hi
    exact List.getElem?_append_left (by omega)
  · ext1 p hp
    have hstart : 16 * (P.length / 16) = P.length - P.length % 16 := by omega
    refine getElem_blockAt hp ?_
    rw [pad, padBlock, Vector.getElem_ofFn]
    by_cases hlt : p < P.length % 16
    · rw [List.getElem?_append_left (by omega), hstart, hb ⟨p, hp⟩ hlt, if_pos hlt]
    · rw [List.getElem?_append_right (by omega), List.getElem?_replicate, if_pos (by omega), if_neg hlt]

/-- Settles O56: the last of the blocks that `blocksOf_pad` lists. -/
theorem paddingRule : Obligations.PaddingRule := by
  refine ⟨fun P => ⟨16 - P.length % 16, by omega, by omega, rfl, rfl, by rw [length_pad]; omega⟩,
    fun b L p hL => by simp [padBlock], fun P b hb => ?_⟩
  rw [blocksOf_pad hb, List.getLast?_concat]

/-! ### The stream loop (R241, R242) -/

/-- The bytes of a stream whose blocks `f` turns into an output matrix and the next chaining vector. -/
def streamBlocks (f : Block → ByteMatrix → ByteMatrix × ByteMatrix) : List Block → ByteMatrix → List Byte
  | [], _ => []
  | x :: xs, V => (serialize (f x V).1).toList ++ streamBlocks f xs (f x V).2

theorem encryptBlocks_eq (m : Mode) (rk : List ByteMatrix) (nr : Nat) (xs : List Block) (V : ByteMatrix) :
    encryptBlocks m rk nr xs V = streamBlocks (encryptStep m rk nr) xs V := by
  induction xs generalizing V with
  | nil => rfl
  | cons x xs ih => cases m <;> simp only [encryptBlocks, streamBlocks, encryptStep, ecbEnc, ih]

theorem decryptBlocks_eq (m : Mode) (rk : List ByteMatrix) (nr : Nat) (ys : List Block) (V : ByteMatrix) :
    decryptBlocks m rk nr ys V = streamBlocks (decryptStep m rk nr) ys V := by
  induction ys generalizing V with
  | nil => rfl
  | cons y ys ih => cases m <;> simp only [decryptBlocks, streamBlocks, decryptStep, ecbDec, ih]

theorem encryptStream_of_params {K : List Byte} {nb nr : Nat} (hk : keyLengthParams K.length = some (nb, nr)) (m : Mode)
    (P : List Byte) : encryptStream m K P =
      some (streamBlocks (encryptStep m (expand K nb nr) nr) (blocksOf (pad P)) zeroMatrix) := by
  simp only [encryptStream, hk, encryptBlocks_eq]

theorem decryptStream_of_params {K C : List Byte} {nb nr : Nat} (hk : keyLengthParams K.length = some (nb, nr))
    (h : C.length % 16 = 0) (m : Mode) : decryptStream m K C =
      some (streamBlocks (decryptStep m (expand K nb nr) nr) (blocksOf C) zeroMatrix) := by
  simp only [decryptStream, if_pos h, hk, decryptBlocks_eq]

theorem keyLengthParams_of_length {K : List Byte} (h : K.length = 16 ∨ K.length = 32) :
    ∃ nb nr, keyLengthParams K.length = some (nb, nr) := by
  rcases h with h | h <;> rw [h]
  · exact ⟨1, 10, rfl⟩
  · exact ⟨2, 14, rfl⟩

theorem keyLengthParams_of_encryptStream {m : Mode} {K P C : List Byte} (h : encryptStream m K P = some C) :
    ∃ nb nr, keyLengthParams K.length = some (nb, nr) := by
  cases hk : keyLengthParams K.length with
  | none => simp [encryptStream, hk] at h
  | some q => exact ⟨q.1, q.2, rfl⟩

theorem keyLengthParams_of_decryptStream {m : Mode} {K C p : List Byte} (h : decryptStream m K C = some p) :
    C.length % 16 = 0 ∧ ∃ nb nr, keyLengthParams K.length = some (nb, nr) := by
  by_cases h16 : C.length % 16 = 0
  · cases hk : keyLengthParams K.length with
    | none => simp [decryptStream, hk] at h
    | some q => exact ⟨h16, q.1, q.2, rfl⟩
  · simp [decryptStream, h16] at h

section
variable (f : Block → ByteMatrix → ByteMatrix × ByteMatrix)

@[simp] theorem length_streamBlocks (xs : List Block) (V : ByteMatrix) :
    (streamBlocks f xs V).length = 16 * xs.length := by
  induction xs generalizing V with
  | nil => rfl
  | cons x xs ih => simp [streamBlocks, ih]; omega

/-- The first `j` blocks of a stream are the stream of the first `j` blocks. -/
theorem take_streamBlocks (xs : List Block) (V : ByteMatrix) (j : Nat) :
    (streamBlocks f xs V).take (16 * j) = streamBlocks f (xs.take j) V := by
  induction xs generalizing V j with
  | nil => simp [streamBlocks]
  | cons x xs ih =>
    cases j with
    | zero => rfl
    | succ j =>
      rw [List.take_succ_cons, streamBlocks, streamBlocks, List.take_append, List.take_of_length_le (by simp),
        Vector.length_toList, Nat.mul_succ, Nat.add_sub_cancel, ih]

end

/-- If `g` undoes `f` block by block, and chains alike, then the stream of `g` undoes the stream of `f`. -/
theorem streamBlocks_streamBlocks {f g : Block → ByteMatrix → ByteMatrix × ByteMatrix}
    (h : ∀ x V, g (serialize (f x V).1) V = (load x, (f x V).2)) (xs : List Block) (V : ByteMatrix) :
    streamBlocks g (blocksOf (streamBlocks f xs V)) V = xs.flatMap Vector.toList := by
  induction xs generalizing V with
  | nil => simp [streamBlocks, blocksOf]
  | cons x xs ih =>
    rw [streamBlocks, blocksOf_append, streamBlocks, h, ih, serialize_load, List.flatMap_cons]

theorem decryptStep_encryptStep (m : Mode) (rk : List ByteMatrix) (nr : Nat) (x : Block) (V : ByteMatrix) :
    decryptStep m rk nr (serialize (encryptStep m rk nr x V).1) V = (load x, (encryptStep m rk nr x V).2) := by
  cases m <;> simp only [decryptStep, encryptStep, load_serialize, invCipher_cipher, combine_combine]

/-- Settles O57: `decryptStep` undoes `encryptStep`, so the decrypted stream is the blocks of `pad(P)`. -/
theorem streamRoundTrip : Obligations.StreamRoundTrip := by
  intro m K P hK
  obtain ⟨nb, nr, hk⟩ := keyLengthParams_of_length hK
  have hlen : (pad P).length / 16 = P.length / 16 + 1 := by rw [length_pad]; omega
  refine ⟨_, encryptStream_of_params hk m P, by rw [length_streamBlocks, length_blocksOf, hlen], ?_⟩
  rw [decryptStream_of_params hk (by simp), streamBlocks_streamBlocks (decryptStep_encryptStep m _ nr),
    flatMap_blocksOf (by rw [length_pad]; omega)]

/-- Settles O58: the leading whole blocks of `P` are those of `pad(P)`, and the stream of leading blocks is the leading part
of the stream. -/
theorem ecbBlockIndependence : Obligations.EcbBlockIndependence := by
  intro K P P' C C' j hP hP' hshare hC hC'
  obtain ⟨nb, nr, hk⟩ := keyLengthParams_of_encryptStream hC
  obtain rfl := Option.some.inj ((encryptStream_of_params hk .ecb P).symm.trans hC)
  obtain rfl := Option.some.inj ((encryptStream_of_params hk .ecb P').symm.trans hC')
  have hpad : (pad P).take (16 * j) = (pad P').take (16 * j) := by
    rw [pad, pad, List.take_append_of_le_length hP, List.take_append_of_le_length hP', hshare]
  rw [take_streamBlocks, take_streamBlocks, take_blocksOf, take_blocksOf, hpad]

/-! ### CBC decryption block by block (R233, R248) -/

/-- The matrix with which CBC decryption combines block `i`: the ciphertext block before it, or `Z` (R233). -/
def chainBefore (C : List Byte) (i : Nat) : ByteMatrix :=
  match i with
  | 0 => zeroMatrix
  | k + 1 => load (blockAt C k)

theorem blockAt_streamBlocks_cbc (rk : List ByteMatrix) (nr : Nat) {ys : List Block} {i : Nat} (h : i < ys.length)
    (V : ByteMatrix) : blockAt (streamBlocks (decryptStep .cbc rk nr) ys V) i =
      serialize (combine (invCipher (load ys[i]) rk nr) ((V :: ys.map load)[i]'(by simp; omega))) := by
  induction ys generalizing V i with
  | nil => cases h
  | cons y ys ih =>
    cases i with
    | zero => exact blockAt_append_zero _ _
    | succ i => exact (blockAt_append_succ _ _ i).trans (ih (Nat.lt_of_succ_lt_succ h) _)

/-- Block `i` of a CBC decryption depends on the ciphertext blocks `i` and `i-1` only. -/
theorem blockAt_decryptCbc (rk : List ByteMatrix) (nr : Nat) {C : List Byte} {i : Nat} (h : i < C.length / 16) :
    blockAt (streamBlocks (decryptStep .cbc rk nr) (blocksOf C) zeroMatrix) i =
      serialize (combine (invCipher (load (blockAt C i)) rk nr) (chainBefore C i)) := by
  rw [blockAt_streamBlocks_cbc rk nr (by simpa using h), getElem_blocksOf]
  cases i with
  | zero => rfl
  | succ k => simp [chainBefore]

theorem chainBefore_congr {C C' : List Byte} {i j : Nat} (hsame : ∀ k, k ≠ i → blockAt C k = blockAt C' k)
    (hj : j ≠ i + 1) : chainBefore C j = chainBefore C' j := by
  cases j with
  | zero => rfl
  | succ k => exact congrArg load (hsame k (by omega))

/-- A decrypted block determines its ciphertext block, the chaining vector being given. -/
theorem decryptCbc_inj {rk : List ByteMatrix} {nr : Nat} {b c : Block} {V : ByteMatrix}
    (h : serialize (combine (invCipher (load b) rk nr) V) = serialize (combine (invCipher (load c) rk nr) V)) :
    b = c := by
  have hcombine := congrArg load h
  rw [load_serialize, load_serialize, combine_comm _ V, combine_comm _ V] at hcombine
  have hload := congrArg (cipher · rk nr) (combine_left_injective V hcombine)
  simp only [cipher_invCipher] at hload
  rw [← serialize_load b, hload, serialize_load]

theorem getElem_serialize_combine (S T : ByteMatrix) (q : Fin 16) :
    (serialize (combine S T))[q] = (serialize S)[q] ^^^ (serialize T)[q] := by
  simp

/-- Settles O59: by `blockAt_decryptCbc` a changed block enters its own block through `invCipher`, which is injective,
and the next one through XOR. -/
theorem cbcChainingSensitivity : Obligations.CbcChainingSensitivity := by
  intro K C C' p p' i hlen hi hsame hdiff hp hp'
  obtain ⟨h16, nb, nr, hk⟩ := keyLengthParams_of_decryptStream hp
  obtain rfl := Option.some.inj ((decryptStream_of_params hk h16 .cbc).symm.trans hp)
  obtain rfl := Option.some.inj ((decryptStream_of_params hk (hlen ▸ h16) .cbc).symm.trans hp')
  have hblocks : ∀ k, k ≠ i → blockAt C k = blockAt C' k := fun k hne =>
    blockAt_congr fun q hq => hsame _ (by omega)
  refine ⟨fun h => ?_, fun j hj hj1 => ?_, fun hi2 q => ?_⟩
  · rw [blockAt_decryptCbc _ nr (by omega), blockAt_decryptCbc _ nr (by omega),
      chainBefore_congr hblocks (by omega)] at h
    exact hdiff (decryptCbc_inj h)
  · by_cases hin : j < C.length
    · rw [getElem?_eq_blockAt (by simp; omega), getElem?_eq_blockAt (by simp; omega)]
      simp only [blockAt_decryptCbc _ nr (show j / 16 < C.length / 16 by omega),
        blockAt_decryptCbc _ nr (show j / 16 < C'.length / 16 by omega), hblocks _ hj, chainBefore_congr hblocks hj1]
    · rw [List.getElem?_eq_none (by simp; omega), List.getElem?_eq_none (by simp; omega)]
  · rw [blockAt_decryptCbc _ nr (by omega), blockAt_decryptCbc _ nr (by omega), hblocks (i + 1) (by omega),
      getElem_serialize_combine, getElem_serialize_combine, chainBefore, chainBefore, serialize_load, serialize_load,
      BitVec.xor_comm _ (blockAt C i)[q], BitVec.xor_comm _ (blockAt C' i)[q], xor_xor_xor_cancel]

end Sys2Proof.Machine
end

section
/-! PROOFS. The turns of the host driver (spec/44_mode_layer.md R246).  `delivers ts out Q s` says of a list of turns
what a triple says of a program: from `s` it runs, brings the bytes `out` to the host, and ends in a state with `Q`.
The rules for one access and for the engine's turn come first; then loading a block, running a command and reading DOUT are
put together, block by block, with `InStream` as the loop's invariant. -/

namespace Sys2Proof.Machine

/-! ### States that agree on the engine -/

theorem sameEngine_iff {s t : State} :
    sameEngine s t ↔ ∃ ts bus n, t = { s with schedule := ts, bus := bus, draws := n } := by
  refine ⟨fun h => ⟨_, _, _, h⟩, ?_⟩
  rintro ⟨ts, bus, n, rfl⟩
  rfl

theorem sameEngine.trans {s t u : State} (h : sameEngine s t) (h' : sameEngine t u) : sameEngine s u := by
  obtain ⟨_, _, _, rfl⟩ := sameEngine_iff.mp h
  obtain ⟨_, _, _, rfl⟩ := sameEngine_iff.mp h'
  rfl

theorem sameEngine_storeDin {s t : State} (h : sameEngine s t) (w : Fin 4) (v : Word) :
    sameEngine (storeDin w v s) (storeDin w v t) := by
  obtain ⟨_, _, _, rfl⟩ := sameEngine_iff.mp h
  rfl

/-- Nothing is pending and `rst` is not asserted. -/
def isIdle (s : State) : Prop := s.rst = false ∧ s.status.busy = false

theorem sameEngine.idle {s t : State} (h : sameEngine s t) (hs : isIdle s) : isIdle t := by
  obtain ⟨_, _, _, rfl⟩ := sameEngine_iff.mp h
  exact hs

/-- No command reads or writes `rst` and the bus log. -/
theorem exec_rst_bus {i : Instr} {s t : State} (h : exec i s = .next t) : t.rst = s.rst ∧ t.bus = s.bus := by
  rcases exec_cases h with ⟨-, -, rfl⟩ | ⟨-, rfl⟩ | ⟨-, -, rfl⟩ | ⟨-, _, _, -, rfl⟩ | ⟨-, rfl⟩ | ⟨-, -, _, rfl⟩ |
    ⟨-, -, _, _, rfl⟩ <;> simp [expandKey]

/-! ### Turns and what they bring to the host -/

/-- The turns `ts`, taken from `s`, append `out` to what the host read from DOUT and end in a state with `Q`. -/
def delivers (ts : List Turn) (out : List Byte) (Q : State → Prop) (s : State) : Prop :=
  ∃ t, playTurns ts s = .next t ∧ hostOutput t.bus = hostOutput s.bus ++ out ∧ Q t

section
variable {ts us : List Turn} {out out' : List Byte} {Q R : State → Prop} {s : State}

theorem delivers_nil (h : Q { s with schedule := [] }) : delivers [] [] Q s :=
  ⟨_, playTurns_nil s, (List.append_nil _).symm, h⟩

theorem delivers.seq (h : delivers ts out Q s) (h' : ∀ t, Q t → delivers us out' R t) :
    delivers (ts ++ us) (out ++ out') R s := by
  obtain ⟨t, ht, hout, hQ⟩ := h
  obtain ⟨u, hu, hout', hR⟩ := h' t hQ
  exact ⟨u, (playTurns_append ht).trans hu, by rw [hout', hout, List.append_assoc], hR⟩

theorem delivers.mono (h : delivers ts out Q s) (h' : ∀ t, Q t → R t) : delivers ts out R s := by
  obtain ⟨t, ht, hout, hQ⟩ := h
  exact ⟨t, ht, hout, h' t hQ⟩

/-- A turn whose step is known. -/
theorem delivers_of_step {t : Turn} {s' : State} (h : step { s with schedule := [t] } = .next s')
    (hout : hostOutput s'.bus = hostOutput s.bus ++ out) (hQ : Q s') : delivers [t] out Q s := by
  have hs : ({ s' with schedule := [] } : State) = s' := by rw [← step_schedule h]
  exact ⟨s', by rw [playTurns_cons h, playTurns_nil, hs], hout, hQ⟩

/-- Silent turns numbered `0 .. n-1`, each leading from `Q` of its number to `Q` of the next. -/
theorem delivers_range {turn : Nat → Turn} {Q : Nat → State → Prop} {n : Nat} (h0 : Q 0 { s with schedule := [] })
    (h : ∀ i, i < n → ∀ t, Q i t → delivers [turn i] [] (Q (i + 1)) t) :
    delivers ((List.range n).map turn) [] (Q n) s := by
  induction n with
  | zero => exact delivers_nil h0
  | succ n ih =>
    rw [List.range_succ, List.map_append]
    exact (ih fun i hi => h i (by omega)).seq (h n (by omega))

/-- When all turns are taken the schedule is empty. -/
theorem playTurns_schedule {t : State} (h : playTurns ts s = .next t) : t.schedule = [] := by
  induction ts generalizing s with
  | nil =>
    cases h
    rfl
  | cons a ts ih =>
    cases hs : step { s with schedule := a :: ts } with
    | next u =>
      rw [playTurns_cons hs] at h
      exact ih h
    | fault r =>
      rw [playTurns_step, hs] at h
      cases h
    | refused r =>
      rw [playTurns_step, hs] at h
      cases h

/-- The last phase of a stream ends as its turns do. -/
theorem finishStream_of_delivers (h : delivers ts out Q s) : ∃ t, finishStream ts s = .finished t ∧
    t.schedule = [] ∧ hostOutput t.bus = hostOutput s.bus ++ out ∧ Q t := by
  obtain ⟨t, ht, hout, hQ⟩ := h
  exact ⟨t, by simp only [finishStream, ht], playTurns_schedule ht, hout, hQ⟩

end

/-! ### Single turns -/

/-- An accepted write of a register that is guarded by BUSY. -/
theorem delivers_accepted {r : Reg} {off : Nat} {s : State} {v : Word} (accept : State → State) (h : standsAt r off)
    (hw : writeReg r v s = unlessBusy accept s) (hs : isIdle s) :
    delivers [wrTurn off v] [] (sameEngine (accept s)) s :=
  delivers_of_step (hostWrites_accepted accept h hw hs.1 hs.2 []) (hostOutput_cons _ _) rfl

/-- A STATUS read brings no output, and the driver sees ERR in its answer. -/
theorem delivers_status {s : State} (hr : s.rst = false) :
    delivers [rdTurn 0x04] [] (fun t => sameEngine s t ∧ errReadClear t.bus = !s.status.err) s := by
  have hno : ¬ Config.base + 0x40 ≤ Config.base + 0x04 := by omega
  refine delivers_of_step (hostReads_readReg status_standsAt hr []) ?_ ⟨rfl, ?_⟩
  · rw [hostOutput_cons, outputBytes, if_neg fun h => hno h.1]
  · rw [errReadClear_cons, readReg, statusWord_bit_err]

theorem delivers_polls {s : State} (hr : s.rst = false) (n : Nat) :
    delivers (List.replicate n (rdTurn 0x04)) [] (sameEngine s) s := by
  induction n generalizing s with
  | zero => exact delivers_nil rfl
  | succ n ih =>
    refine (delivers_status hr).seq (us := List.replicate n (rdTurn 0x04)) (out' := []) ?_
    rintro t ⟨ht, -⟩
    have hr' : t.rst = false := by rw [ht]; exact hr
    exact (ih hr').mono fun u hu => ht.trans hu

/-- A read of DOUT while BUSY is 0 brings the register's bytes. -/
theorem delivers_dout {s : State} (hs : isIdle s) (w : Fin 4) :
    delivers [rdTurn (0x40 + 4 * w.val)] (wordBytes s.dout[w]) (sameEngine s) s := by
  obtain ⟨hr, hb⟩ := hs
  have hread := hostReads_readReg (dout_standsAt w) hr
  rw [readReg, if_neg (by simp [hb])] at hread
  refine delivers_of_step (hread []) ?_ rfl
  rw [hostOutput_cons, outputBytes, if_pos ⟨by omega, by omega⟩]

/-- The engine's turn with a legal command pending. -/
theorem delivers_engine {i : Instr} {s t : State} (hp : pending s (encode i)) (hd : decode (encode i) = .ok i)
    (hx : exec i s = .next t) : delivers [.engine] [] (sameEngine t) s := by
  have hstep : step { s with schedule := [.engine] } = .next { t with schedule := [] } := by
    have hturn : engineTurn { s with schedule := [] } = exec i { s with schedule := [] } :=
      engineTurn_of_pending (s := { s with schedule := [] }) hp hd
    exact hturn.trans (by rw [exec_withSchedule, hx]; rfl)
  obtain ⟨-, hbus⟩ := exec_rst_bus hx
  exact delivers_of_step hstep (by simp [hbus]) rfl

/-! ### Loading a block, running a command, reading DOUT -/

/-- The four DIN writes of a block (30_encoding.md R98). -/
theorem delivers_blockTurns {s : State} (hs : isIdle s) (b : Block) :
    delivers (blockTurns b) [] (sameEngine { s with din := wordsOfBlock b }) s := by
  have hwrite (w : Fin 4) (d : Vector Word 4) (t : State) (ht : sameEngine { s with din := d } t) :
      delivers [wrTurn (0x30 + 4 * w.val) (wordsOfBlock b)[w]] []
        (sameEngine { s with din := d.set w (wordsOfBlock b)[w] }) t := by
    have hset := delivers_accepted (storeDin w (wordsOfBlock b)[w]) (din_standsAt w) rfl (ht.idle hs)
    exact hset.mono fun u hu => (sameEngine_storeDin ht w _).trans hu
  have hall := (hwrite 0 s.din s rfl).seq fun t ht => (hwrite 1 _ t ht).seq fun u hu =>
    (hwrite 2 _ u hu).seq (hwrite 3 _)
  have hdin : (((s.din.set 0 (wordsOfBlock b)[0]).set 1 (wordsOfBlock b)[1]).set 2 (wordsOfBlock b)[2]).set 3
      (wordsOfBlock b)[3] = wordsOfBlock b := by
    ext1 w hw
    interval_cases w <;> simp
  exact hdin ▸ hall

/-- The bytes of a block, register by register. -/
theorem toList_blockOfWords (v : Vector Word 4) : (blockOfWords v).toList =
    wordBytes v[0] ++ (wordBytes v[1] ++ (wordBytes v[2] ++ wordBytes v[3])) := by
  simp [blockOfWords, wordBytes, ← Vector.toList_toArray, List.ofFn_succ]

/-- The four DOUT reads of a block (30_encoding.md R98). -/
theorem delivers_readoutTurns {s : State} (hs : isIdle s) :
    delivers readoutTurns (blockOfWords s.dout).toList (sameEngine s) s := by
  have hread (w : Fin 4) (t : State) (ht : sameEngine s t) :
      delivers [rdTurn (0x40 + 4 * w.val)] (wordBytes s.dout[w]) (sameEngine s) t := by
    have hdout : t.dout = s.dout := by rw [ht]
    exact hdout ▸ (delivers_dout (ht.idle hs) w).mono fun u hu => ht.trans hu
  rw [toList_blockOfWords]
  exact (hread 0 s rfl).seq fun t ht => (hread 1 t ht).seq fun u hu => (hread 2 u hu).seq (hread 3)

/-- `RUN c` (30_encoding.md R98): the command is performed in the state its CMD write leaves, after any number of
polls. -/
theorem delivers_runTurns {i : Instr} {s : State} {Q : State → Prop} (hd : decode (encode i) = .ok i) (hs : isIdle s)
    (polls : Nat)
    (hx : ∀ t, sameEngine (acceptCmd (encode i) s) t → ∃ u, exec i t = .next u ∧ ∀ v, sameEngine u v → Q v) :
    delivers (runTurns i polls) [] Q s := by
  have hwrite : delivers [wrTurn 0x08 (encode i)] [] (sameEngine (acceptCmd (encode i) s)) s :=
    delivers_accepted (acceptCmd (encode i)) cmd_standsAt rfl hs
  refine hwrite.seq (us := List.replicate polls (rdTurn 0x04) ++ ([.engine] ++ [rdTurn 0x04]))
    (out' := [] ++ ([] ++ [])) fun t ht => ?_
  have hr : t.rst = false := by rw [ht]; exact hs.1
  refine (delivers_polls hr polls).seq fun u hu => ?_
  obtain ⟨v, hv, hQ⟩ := hx u (ht.trans hu)
  have hp : pending u (encode i) := by
    obtain ⟨_, _, _, rfl⟩ := sameEngine_iff.mp (ht.trans hu)
    exact ⟨hs.1, rfl, rfl⟩
  refine (delivers_engine hp hd hv).seq fun w hw => ?_
  have hr' : w.rst = false := by
    obtain ⟨hrst, -⟩ := exec_rst_bus hv
    rw [hw]
    exact hrst.trans hp.1
  exact (delivers_status hr').mono fun x hx => hQ x (hw.trans hx.1)

/-! ### The blocks of a stream -/

/-- Idle and without error in mode `m` under the schedule `rk` of `nr` rounds, with the chaining vector `V`. -/
structure InStream (m : Mode) (rk : List ByteMatrix) (nr : Nat) (V : ByteMatrix) (s : State) : Prop where
  idle : isIdle s
  err : s.status.err = false
  holds : HoldsKey rk nr s
  mode : s.ctrl.mode = m
  cv : s.cv = V

/-- With the block `b` in DIN the command `i` writes what `f` makes of CV. -/
structure Performs (m : Mode) (rk : List ByteMatrix) (nr : Nat) (i : Instr) (b : Block)
    (f : ByteMatrix → ByteMatrix × ByteMatrix) : Prop where
  decodes : decode (encode i) = .ok i
  result : ∀ s, HoldsKey rk nr s → s.ctrl.mode = m → dinBlock s = b → exec i s = .next (finishBlock (f s.cv) s)

section
variable (m : Mode) (rk : List ByteMatrix) (nr : Nat) (b : Block)

theorem performs_encrypt : Performs m rk nr .encrypt b (encryptStep m rk nr b) where
  decodes := by decide
  result s h hm hb := by rw [h.exec_encrypt, hm, hb]

theorem performs_decrypt : Performs m rk nr .decrypt b (decryptStep m rk nr b) where
  decodes := by decide
  result s h hm hb := by rw [h.exec_decrypt, hm, hb]

theorem performs_encryptFinal {len : Nat} (hlen : len ≤ 15) :
    Performs m rk nr (.encryptFinal len) b (encryptStep m rk nr (padBlock b len)) where
  decodes := decode_encryptFinal len hlen
  result s h hm hb := by rw [h.exec_encryptFinal, hm, hb]

end

/-- The chaining vector after the blocks `xs`. -/
def chainAfter (f : Block → ByteMatrix → ByteMatrix × ByteMatrix) (xs : List Block) (V : ByteMatrix) : ByteMatrix :=
  xs.foldl (fun W x => (f x W).2) V

theorem streamBlocks_append (f : Block → ByteMatrix → ByteMatrix × ByteMatrix) (xs ys : List Block) (V : ByteMatrix) :
    streamBlocks f (xs ++ ys) V = streamBlocks f xs V ++ streamBlocks f ys (chainAfter f xs V) := by
  induction xs generalizing V with
  | nil => rfl
  | cons x xs ih => rw [List.cons_append, streamBlocks, streamBlocks, ih, List.append_assoc]; rfl

section
variable {m : Mode} {rk : List ByteMatrix} {nr : Nat} {V : ByteMatrix} {s : State}

theorem InStream.of_sameEngine {t : State} (h : InStream m rk nr V s) (ht : sameEngine s t) : InStream m rk nr V t := by
  obtain ⟨_, _, _, rfl⟩ := sameEngine_iff.mp ht
  exact ⟨h.idle, h.err, h.holds.of_eq rfl rfl rfl, h.mode, h.cv⟩

theorem InStream.loadDin (h : InStream m rk nr V s) (d : Vector Word 4) : InStream m rk nr V { s with din := d } :=
  ⟨h.idle, h.err, h.holds.of_eq rfl rfl rfl, h.mode, h.cv⟩

/-- A block command of a stream, once it is pending, writes its output and moves the chaining vector on. -/
theorem Performs.exec_pending {i : Instr} {b : Block} {f : ByteMatrix → ByteMatrix × ByteMatrix} {t : State} {w : Word}
    (hi : Performs m rk nr i b f) (h : InStream m rk nr V s) (hb : dinBlock s = b) (ht : sameEngine (acceptCmd w s) t) :
    exec i t = .next (finishBlock (f V) t) ∧ InStream m rk nr (f V).2 (finishBlock (f V) t) := by
  obtain ⟨⟨hr, -⟩, herr, hholds, hmode, rfl⟩ := h
  have ht' : t.rst = s.rst ∧ t.status.err = s.status.err ∧ t.ctrl = s.ctrl ∧ dinBlock t = dinBlock s ∧ t.cv = s.cv ∧
      HoldsKey rk nr t := by
    obtain ⟨_, _, _, rfl⟩ := sameEngine_iff.mp ht
    exact ⟨rfl, rfl, rfl, rfl, rfl, hholds.of_eq rfl rfl rfl⟩
  obtain ⟨hrst, herr', hctrl, hdin, hcv, hholds'⟩ := ht'
  have hmode' : t.ctrl.mode = m := by rw [hctrl, hmode]
  refine ⟨?_, ⟨hrst.trans hr, rfl⟩, herr'.trans herr, hholds'.finishBlock _, hmode', rfl⟩
  rw [hi.result t hholds' hmode' (hdin.trans hb), hcv]

/-- One block of a stream (R246): its output is read, and the stream goes on with the next chaining vector. -/
theorem delivers_oneBlockTurns {i : Instr} {b : Block} {f : ByteMatrix → ByteMatrix × ByteMatrix}
    (hi : Performs m rk nr i b f) (polls : Nat) (h : InStream m rk nr V s) :
    delivers (oneBlockTurns i b polls) (serialize (f V).1).toList (InStream m rk nr (f V).2) s := by
  have hrun : ∀ t, sameEngine { s with din := wordsOfBlock b } t → delivers (runTurns i polls) []
      (fun u => InStream m rk nr (f V).2 u ∧ u.dout = wordsOfBlock (serialize (f V).1)) t := by
    intro t ht
    have hin : InStream m rk nr V t := (h.loadDin _).of_sameEngine ht
    have hdin : t.din = wordsOfBlock b := by rw [ht]
    have hb : dinBlock t = b := by rw [dinBlock, hdin, blockOfWords_wordsOfBlock]
    refine delivers_runTurns hi.decodes hin.idle polls fun u hu => ?_
    obtain ⟨hx, hend⟩ := hi.exec_pending hin hb hu
    exact ⟨_, hx, fun v hv => ⟨hend.of_sameEngine hv, by rw [hv]; rfl⟩⟩
  rw [oneBlockTurns, ← List.nil_append (serialize (f V).1).toList]
  refine delivers.seq (out := []) ((delivers_blockTurns h.idle b).seq hrun) ?_
  rintro u ⟨hu, hdout⟩
  have hread := delivers_readoutTurns hu.idle
  rw [hdout, blockOfWords_wordsOfBlock] at hread
  exact hread.mono fun v hv => hu.of_sameEngine hv

/-- The blocks of a stream one after the other, each with its own command and latency. -/
theorem delivers_blocks {f : Block → ByteMatrix → ByteMatrix × ByteMatrix} {turns : Nat → List Turn}
    {block : Nat → Block}
    (hturns : ∀ i V s, InStream m rk nr V s →
      delivers (turns i) (serialize (f (block i) V).1).toList (InStream m rk nr (f (block i) V).2) s)
    (is : List Nat) (h : InStream m rk nr V s) : delivers (is.flatMap turns) (streamBlocks f (is.map block) V)
      (InStream m rk nr (chainAfter f (is.map block) V)) s := by
  induction is generalizing V s with
  | nil => exact delivers_nil (h.of_sameEngine rfl)
  | cons i is ih => exact (hturns i V s h).seq fun t ht => ih ht

theorem tailBlock_spec (P : List Byte) (fill : Block) (p : Fin 16) (hp : p.val < P.length % 16) :
    P[P.length - P.length % 16 + p.val]? = some (tailBlock P fill)[p] := by
  have hindex : P.length - P.length % 16 + p.val = 16 * (P.length / 16) + p.val := by omega
  have hin : 16 * (P.length / 16) + p.val < P.length := by omega
  simp [tailBlock, hp, hindex, hin]

/-- The blocks of an encryption bring the encrypted stream (R246). -/
theorem delivers_encryptBody (h : InStream m rk nr zeroMatrix s) (lat : Nat → Nat) (fill : Block) (P : List Byte) :
    delivers (encryptBody lat fill P) (streamBlocks (encryptStep m rk nr) (blocksOf (pad P)) zeroMatrix)
      (fun t => t.status.err = false) s := by
  have hblocks := delivers_blocks
    (fun i _ _ => delivers_oneBlockTurns (performs_encrypt m rk nr (blockAt P i)) (lat (i + 1)))
    (List.range (P.length / 16)) h
  rw [blocksOf_pad (tailBlock_spec P fill), streamBlocks_append, streamBlocks, streamBlocks, List.append_nil]
  have hlast := performs_encryptFinal m rk nr (tailBlock P fill) (len := P.length % 16) (by omega)
  exact (hblocks.seq fun _ => delivers_oneBlockTurns hlast (lat (P.length / 16 + 1))).mono fun t ht => ht.err

/-- The blocks of a decryption bring the decrypted stream (R246). -/
theorem delivers_decryptBody (h : InStream m rk nr zeroMatrix s) (lat : Nat → Nat) (C : List Byte) :
    delivers (decryptBody lat C) (streamBlocks (decryptStep m rk nr) (blocksOf C) zeroMatrix)
      (fun t => t.status.err = false) s :=
  (delivers_blocks (fun i _ _ => delivers_oneBlockTurns (performs_decrypt m rk nr (blockAt C i)) (lat (i + 1)))
    (List.range (C.length / 16)) h).mono fun _ ht => ht.err

end

end Sys2Proof.Machine
end

section
/-! PROOFS. The prologue of the host driver and what it decides (spec/44_mode_layer.md R243, R244, R246).  The prologue
leaves a stream's first state (`InStream` with `Z`) or an error in STATUS, and its last answer shows which. -/

namespace Sys2Proof.Machine

/-! ### Loading the key -/

/-- The word the prologue writes to CTRL (R246). -/
def prologueCtrl (m : Mode) (len : Nat) : Word :=
  (keySizeCode len <<< 1) ||| (BitVec.ofBool (modeBit m)).setWidth 32

theorem prologueTurns_eq (lat : Nat → Nat) (m : Mode) (K : List Byte) : prologueTurns lat m K =
    [wrTurn 0x00 (prologueCtrl m K.length)] ++ keyTurns K ++ runTurns .keyExpand (lat 0) ++ [rdTurn 0x04] := rfl

/-- The CTRL word of the prologue selects the mode, and for KEY_EXPAND what the key's length asks for (R244, R246). -/
theorem ctrlOfWord_prologue (m : Mode) (len : Nat) :
    (ctrlOfWord (prologueCtrl m len)).mode = m ∧
      keySizeParams (ctrlOfWord (prologueCtrl m len)).keysize = keyLengthParams len := by
  rw [prologueCtrl, keySizeCode, keyLengthParams]
  split_ifs <;> cases m <;> decide

/-- `t` is `s` with the driver's CTRL written and its first `n` key words stored. -/
structure KeyLoaded (m : Mode) (K : List Byte) (n : Nat) (s t : State) : Prop where
  idle : isIdle t
  mode : t.ctrl.mode = m
  size : keySizeParams t.ctrl.keysize = keyLengthParams K.length
  err : t.status.err = s.status.err
  dout : t.dout = s.dout
  words : ∀ w : Fin 8, w.val < n → t.key[w] = keyWord K w.val

theorem KeyLoaded.of_sameEngine {m : Mode} {K : List Byte} {n : Nat} {s t u : State} (h : KeyLoaded m K n s t)
    (hu : sameEngine t u) : KeyLoaded m K n s u := by
  obtain ⟨_, _, _, rfl⟩ := sameEngine_iff.mp hu
  exact ⟨h.idle, h.mode, h.size, h.err, h.dout, h.words⟩

/-- The next key word. -/
theorem KeyLoaded.storeKey {m : Mode} {K : List Byte} {s t : State} {w : Fin 8} (h : KeyLoaded m K w.val s t) :
    KeyLoaded m K (w.val + 1) s (storeKey w (keyWord K w.val) t) where
  idle := h.idle
  mode := h.mode
  size := h.size
  err := h.err
  dout := h.dout
  words k hk := by
    rcases Nat.lt_succ_iff_lt_or_eq.mp hk with hlt | heq
    · have hne : w.val ≠ k.val := by omega
      simpa [Machine.storeKey, hne] using h.words k hlt
    · obtain rfl : k = w := Fin.ext heq
      simp [Machine.storeKey]

/-- CTRL and the key, up to KEY_EXPAND (R246). -/
theorem delivers_keyLoad {s : State} (hs : isIdle s) (m : Mode) (K : List Byte) :
    delivers ([wrTurn 0x00 (prologueCtrl m K.length)] ++ keyTurns K) [] (KeyLoaded m K (min (K.length / 4) 8) s) s := by
  obtain ⟨hmode, hsize⟩ := ctrlOfWord_prologue m K.length
  refine (delivers_accepted (storeCtrl (prologueCtrl m K.length)) ctrl_standsAt rfl hs).seq (out' := []) fun t ht => ?_
  refine delivers_range (Q := fun n => KeyLoaded m K n s) ?_ fun w hw u hu => ?_
  · have h0 : KeyLoaded m K 0 s (storeCtrl (prologueCtrl m K.length) s) :=
      ⟨hs, hmode, hsize, rfl, rfl, fun w hw => absurd hw (Nat.not_lt_zero _)⟩
    exact (h0.of_sameEngine ht).of_sameEngine rfl
  · have hset := delivers_accepted (storeKey ⟨w, by omega⟩ (keyWord K w)) (key_standsAt ⟨w, by omega⟩) rfl hu.idle
    exact hset.mono fun v hv => (KeyLoaded.storeKey (w := ⟨w, by omega⟩) hu).of_sameEngine hv

theorem wordByte_keyWord (K : List Byte) (w : Nat) (i : Fin 4) :
    wordByte (keyWord K w) i.val = K.getD (4 * w + i.val) 0 := by
  obtain ⟨h0, h1, h2, h3⟩ :=
    wordByte_packWord (K.getD (4 * w) 0) (K.getD (4 * w + 1) 0) (K.getD (4 * w + 2) 0) (K.getD (4 * w + 3) 0)
  fin_cases i
  · exact h0
  · exact h1
  · exact h2
  · exact h3

/-- The key registers that hold the words of `K` begin with the bytes of `K` (20_memory.md R60, 10_state.md R37). -/
theorem take_keyBytes {K : List Byte} {key : Vector Word 8} (hlen : K.length ≤ 32) (h4 : K.length % 4 = 0)
    (h : ∀ w : Fin 8, w.val < K.length / 4 → key[w] = keyWord K w.val) : (keyBytes key).take K.length = K := by
  refine List.ext_getElem? fun j => ?_
  by_cases hj : j < K.length
  · have hbyte := getElem?_keyBytes key ⟨j / 4, by omega⟩ ⟨j % 4, by omega⟩
    rw [h _ (by simp; omega), wordByte_keyWord, Nat.div_add_mod] at hbyte
    rw [List.getElem?_take_of_lt hj, hbyte, List.getD_eq_getElem?_getD, List.getElem?_eq_getElem hj, Option.getD_some]
  · rw [List.getElem?_eq_none (by simp; omega), List.getElem?_eq_none (by omega)]

theorem keyLengthParams_eq_some {len nb nr : Nat} (h : keyLengthParams len = some (nb, nr)) :
    (len = 16 ∧ nb = 1 ∧ nr = 10) ∨ (len = 32 ∧ nb = 2 ∧ nr = 14) := by
  unfold keyLengthParams at h
  split_ifs at h <;> simp_all

theorem keyLengthParams_eq_none_iff (len : Nat) : keyLengthParams len = none ↔ len ≠ 16 ∧ len ≠ 32 := by
  unfold keyLengthParams
  split_ifs <;> simp_all

/-! ### KEY_EXPAND and the driver's decision -/

/-- How the prologue leaves the engine: under the schedule of a key of a legal length, or with E_KEYSIZE (R244). -/
structure PrologueDone (m : Mode) (K : List Byte) (s t : State) : Prop where
  rst : t.rst = false
  dout : t.dout = s.dout
  expanded : ∀ nb nr, keyLengthParams K.length = some (nb, nr) →
    t.status.err = s.status.err ∧ (s.status.err = false → InStream m (expand K nb nr) nr zeroMatrix t)
  rejected : keyLengthParams K.length = none →
    t.status.err = true ∧ t.status.errcode = 2 ∧ t.status.keyValid = false

theorem PrologueDone.of_sameEngine {m : Mode} {K : List Byte} {s t u : State} (h : PrologueDone m K s t)
    (hu : sameEngine t u) : PrologueDone m K s u where
  rst := by rw [hu]; exact h.rst
  dout := by rw [hu]; exact h.dout
  expanded nb nr hk := by
    obtain ⟨herr, hin⟩ := h.expanded nb nr hk
    exact ⟨by rw [hu]; exact herr, fun he => (hin he).of_sameEngine hu⟩
  rejected hk := by rw [hu]; exact h.rejected hk

/-- KEY_EXPAND with the key loaded and its CMD word pending. -/
theorem KeyLoaded.exec_keyExpand {m : Mode} {K : List Byte} {s t u : State} {w : Word}
    (h : KeyLoaded m K (min (K.length / 4) 8) s t) (hu : sameEngine (acceptCmd w t) u) :
    ∃ v, exec .keyExpand u = .next v ∧ PrologueDone m K s v := by
  have hu' : u.rst = false ∧ u.ctrl = t.ctrl ∧ u.status.err = s.status.err ∧ u.dout = s.dout ∧ u.key = t.key := by
    obtain ⟨hrst, -⟩ := h.idle
    rw [hu]
    exact ⟨hrst, rfl, h.err, h.dout, rfl⟩
  obtain ⟨hrst, hctrl, herr, hdout, hkey⟩ := hu'
  have hsize : keySizeParams u.ctrl.keysize = keyLengthParams K.length := by rw [hctrl, h.size]
  cases hk : keyLengthParams K.length with
  | none =>
    refine ⟨_, exec_keyExpand_of_none (hsize.trans hk), hrst, hdout, fun nb nr hk' => ?_, fun _ => ⟨rfl, rfl, rfl⟩⟩
    rw [hk] at hk'
    cases hk'
  | some p =>
    obtain ⟨nb, nr⟩ := p
    have hparams := hsize.trans hk
    have hx := exec_keyExpand_of_some hparams
    obtain ⟨hrst', -⟩ := exec_rst_bus hx
    refine ⟨_, hx, hrst'.trans hrst, by simpa [expandKey] using hdout,
      fun nb' nr' hk' => ⟨herr, fun he => ?_⟩, fun hk' => ?_⟩
    · obtain ⟨rfl, rfl⟩ : nb = nb' ∧ nr = nr' := by simpa [hk] using hk'
      have hbytes : (keyBytes u.key).take (16 * nb) = K := by
        have hlen := keyLengthParams_eq_some hk
        rw [show 16 * nb = K.length by omega, hkey]
        exact take_keyBytes (by omega) (by omega) fun w hw => h.words w (by omega)
      have hholds := holdsKey_expandKey hparams
      rw [scheduleOfKey, hbytes] at hholds
      refine ⟨⟨hrst'.trans hrst, rfl⟩, herr.trans he, hholds, ?_, rfl⟩
      rw [expandKey_ctrl, hctrl, h.mode]
    · rw [hk] at hk'
      cases hk'

/-- The prologue (R246) reads nothing from DOUT, and its last answer is STATUS. -/
theorem delivers_prologueTurns {s : State} (hs : isIdle s) (lat : Nat → Nat) (m : Mode) (K : List Byte) :
    delivers (prologueTurns lat m K) [] (fun t => PrologueDone m K s t ∧ errReadClear t.bus = !t.status.err) s := by
  have hexpand : ∀ t, KeyLoaded m K (min (K.length / 4) 8) s t →
      delivers (runTurns .keyExpand (lat 0)) [] (PrologueDone m K s) t := fun t ht =>
    delivers_runTurns (by decide) ht.idle (lat 0) fun u hu => by
      obtain ⟨v, hv, hdone⟩ := ht.exec_keyExpand hu
      exact ⟨v, hv, fun x => hdone.of_sameEngine⟩
  have hread : ∀ t, PrologueDone m K s t → delivers [rdTurn 0x04] []
      (fun u => PrologueDone m K s u ∧ errReadClear u.bus = !u.status.err) t := by
    intro t ht
    refine (delivers_status ht.rst).mono ?_
    rintro u ⟨hu, hanswer⟩
    exact ⟨ht.of_sameEngine hu, by rw [hanswer, hu]⟩
  rw [prologueTurns_eq]
  exact ((delivers_keyLoad hs m K).seq hexpand).seq hread

/-- The driver aborts, whatever blocks would follow, on a key of no legal length and on an error left in STATUS. -/
theorem afterPrologue_aborts {s : State} {K : List Byte} (hs : isIdle s)
    (h : (K.length ≠ 16 ∧ K.length ≠ 32) ∨ s.status.err = true) (lat : Nat → Nat) (m : Mode) :
    ∃ t, (∀ body, afterPrologue lat m K body s = .aborted t) ∧ t.dout = s.dout ∧
      hostOutput t.bus = hostOutput s.bus ∧ t.status.err = true ∧
      (K.length ≠ 16 → K.length ≠ 32 → t.status.errcode = 2 ∧ t.status.keyValid = false) := by
  obtain ⟨t, ht, hout, hdone, hread⟩ := delivers_prologueTurns hs lat m K
  have herr : t.status.err = true := by
    cases hk : keyLengthParams K.length with
    | none =>
      obtain ⟨herr, -⟩ := hdone.rejected hk
      exact herr
    | some p =>
      obtain ⟨herr, -⟩ := hdone.expanded p.1 p.2 hk
      have hlen := keyLengthParams_eq_some (nb := p.1) (nr := p.2) hk
      rw [herr]
      exact h.resolve_left (by omega)
  refine ⟨t, fun body => afterPrologue_of_error ht (by rw [hread, herr]; rfl), hdone.dout,
    by rw [hout, List.append_nil], herr, fun h16 h32 => ?_⟩
  obtain ⟨-, hcode⟩ := hdone.rejected ((keyLengthParams_eq_none_iff _).mpr ⟨h16, h32⟩)
  exact hcode

/-! ### The stream after the prologue, and a second stream -/

/-- RUN CHAIN_RESET under an expanded key starts a stream (R240, R246). -/
theorem delivers_chainReset {s : State} {m : Mode} {rk : List ByteMatrix} {nr : Nat} {V : ByteMatrix}
    (h : InStream m rk nr V s) (polls : Nat) :
    delivers (runTurns .chainReset polls) [] (InStream m rk nr zeroMatrix) s := by
  refine delivers_runTurns (by decide) h.idle polls fun t ht => ⟨complete (setCv zeroMatrix t), rfl, fun v hv => ?_⟩
  have hend : InStream m rk nr zeroMatrix (complete (setCv zeroMatrix t)) := by
    obtain ⟨⟨hr, -⟩, herr, hholds, hmode, -⟩ := h
    obtain ⟨_, _, _, rfl⟩ := sameEngine_iff.mp ht
    exact ⟨⟨hr, rfl⟩, herr, hholds.of_eq rfl rfl rfl, hmode, rfl⟩
  exact hend.of_sameEngine hv

theorem holdsKey_of_expandedKey {K : List Byte} {s : State} {nb nr : Nat} (hv : s.status.keyValid = true)
    (h : expandedKey K s) (hk : keyLengthParams K.length = some (nb, nr)) : HoldsKey (expand K nb nr) nr s := by
  obtain ⟨nb', nr', hk', hnr, hrk⟩ := h
  obtain ⟨rfl, rfl⟩ : nb = nb' ∧ nr = nr' := by simpa [hk] using hk'
  refine ⟨hv, ?_, hnr, hrk⟩
  rcases keyLengthParams_eq_some hk with ⟨-, -, rfl⟩ | ⟨-, -, rfl⟩
  · exact .inl (BitVec.eq_of_toNat_eq hnr)
  · exact .inr (BitVec.eq_of_toNat_eq hnr)

/-- A stream under a key of a legal length, from an idle state without error, is its blocks after the prologue, or after
CHAIN_RESET if the key is already expanded. -/
theorem stream_finishes {s : State} {m : Mode} {K : List Byte} {nb nr : Nat} {body : List Turn} {out : List Byte}
    {lat : Nat → Nat} {d : DriverEnd} (hs : isIdle s) (he : s.status.err = false)
    (hk : keyLengthParams K.length = some (nb, nr))
    (hbody : ∀ t, InStream m (expand K nb nr) nr zeroMatrix t → delivers body out (fun u => u.status.err = false) t)
    (hd : d = afterPrologue lat m K body s ∨ (d = finishStream (runTurns .chainReset (lat 0) ++ body) s ∧
      s.ctrl.mode = m ∧ s.status.keyValid = true ∧ expandedKey K s)) :
    ∃ t, d = .finished t ∧ t.schedule = [] ∧ t.status.err = false ∧ hostOutput t.bus = hostOutput s.bus ++ out := by
  rcases hd with rfl | ⟨rfl, hm, hv, hkey⟩
  · obtain ⟨t, ht, hout, hdone, hread⟩ := delivers_prologueTurns hs lat m K
    obtain ⟨herr, hin⟩ := hdone.expanded nb nr hk
    obtain ⟨u, hu, hsched, hout', herr'⟩ := finishStream_of_delivers (hbody t (hin he))
    refine ⟨u, ?_, hsched, herr', by rw [hout', hout, List.append_nil]⟩
    rw [afterPrologue_of_clear ht (by rw [hread, herr, he]; rfl), hu]
  · have hin : InStream m (expand K nb nr) nr s.cv s := ⟨hs, he, holdsKey_of_expandedKey hv hkey hk, hm, rfl⟩
    obtain ⟨u, hu, hsched, hout, herr⟩ := finishStream_of_delivers ((delivers_chainReset hin (lat 0)).seq hbody)
    exact ⟨u, hu, hsched, herr, hout⟩

/-- Settles O60: the prologue or CHAIN_RESET starts a stream, whose blocks bring the stream function's bytes; and the
prologue's STATUS read decides on the abort. -/
theorem driverComputesTheStream : Obligations.DriverComputesTheStream := by
  refine ⟨fun m K s hK hr hb he => ?_, fun lat m K C s h => ?_, fun m K P C h16 h32 => ?_,
    fun lat fill m K P C s hr hb h => ?_⟩
  · obtain ⟨nb, nr, hk⟩ := keyLengthParams_of_length hK
    refine ⟨fun lat fill P d hd => ?_, fun lat C d h16 hd => ?_⟩
    · obtain ⟨t, ht, hsched, herr, hout⟩ :=
        stream_finishes ⟨hr, hb⟩ he hk (fun t ht => delivers_encryptBody ht lat fill P) hd
      exact ⟨t, _, ht, hsched, herr, encryptStream_of_params hk m P, hout⟩
    · rw [decryptDriver, nextDecryptDriver, unlessTruncated_of_whole _ h16, unlessTruncated_of_whole _ h16] at hd
      obtain ⟨t, ht, hsched, herr, hout⟩ :=
        stream_finishes ⟨hr, hb⟩ he hk (fun t ht => delivers_decryptBody ht lat C) hd
      exact ⟨t, _, ht, hsched, herr, decryptStream_of_params hk h16 m, hout⟩
  · exact ⟨if_neg h, unlessTruncated_of_truncated _ h, unlessTruncated_of_truncated _ h⟩
  · have hk : keyLengthParams K.length = none := (keyLengthParams_eq_none_iff _).mpr ⟨h16, h32⟩
    simp only [encryptStream, decryptStream, hk, ite_self, and_self]
  · obtain ⟨t, hab, hdout, hout, herr, hcode⟩ := afterPrologue_aborts ⟨hr, hb⟩ h lat m
    exact ⟨t, hab _, fun h16 => (unlessTruncated_of_whole _ h16).trans (hab _), hdout, hout, herr, hcode⟩

end Sys2Proof.Machine
end

section
/-! PROOFS. The statements of spec/60_exceptions.md: E_NO_KEY (R277) and E_BUSY (R278).  A dropped write moves only ERR and
ERRCODE, which no command reads: one that succeeds keeps them as they are (`droppedOutcome_next`), and one that raises an
error overwrites them (`droppedOutcome_raise`). -/

namespace Sys2Proof.Machine

/-! ### Host writes while BUSY is 1 -/

/-- An aligned offset among those of `n` registers from `lo` on is the offset of one of them (10_state.md R20). -/
theorem exists_register_offset {n lo off : Nat} (h4 : (off - lo) % 4 = 0) (hlo : lo ≤ off) (hhi : off < lo + 4 * n) :
    ∃ w : Fin n, off = lo + 4 * w.val := ⟨⟨(off - lo) / 4, by omega⟩, by dsimp only; omega⟩

/-- A write to CTRL, CMD, KEYn or DINn is dropped while BUSY is 1 (R278). -/
theorem hostWrites_dropped_of_offset {off : Nat} {s : State} (v : Word) (hr : s.rst = false) (hb : s.status.busy = true)
    (h4 : off % 4 = 0) (h : off = 0x00 ∨ off = 0x08 ∨ (0x10 ≤ off ∧ off ≤ 0x3C)) :
    hostWrites s off v (dropWrite s) := by
  rcases h with rfl | rfl | ⟨hlo, hhi⟩
  · exact hostWrites_dropped (storeCtrl v) ctrl_standsAt rfl hr hb
  · exact hostWrites_dropped (acceptCmd v) cmd_standsAt rfl hr hb
  · by_cases hkey : off ≤ 0x2C
    · obtain ⟨w, rfl⟩ : ∃ w : Fin 8, off = 0x10 + 4 * w.val := exists_register_offset (by omega) hlo (by omega)
      exact hostWrites_dropped (storeKey w v) (key_standsAt w) rfl hr hb
    · obtain ⟨w, rfl⟩ : ∃ w : Fin 4, off = 0x30 + 4 * w.val := exists_register_offset (by omega) (by omega) (by omega)
      exact hostWrites_dropped (storeDin w v) (din_standsAt w) rfl hr hb

/-- A write to DOUT or to a reserved offset changes nothing (10_state.md R39, 20_memory.md R68). -/
theorem hostWrites_ignored_of_offset {off : Nat} {s : State} (v : Word) (hr : s.rst = false) (h4 : off % 4 = 0)
    (ho : off < 0x100) (h : off = 0x0C ∨ 0x40 ≤ off) : hostWrites s off v s := by
  by_cases hdout : 0x40 ≤ off ∧ off ≤ 0x4C
  · obtain ⟨w, rfl⟩ : ∃ w : Fin 4, off = 0x40 + 4 * w.val := exists_register_offset (by omega) hdout.1 (by omega)
    exact hostWrites_writeReg (dout_standsAt w) hr v
  · exact hostWrites_writeReg (reserved_standsAt h4 (by omega)) hr v

/-- Bit 2 of a write to STATUS clears ERR and ERRCODE together; without it both stay (10_state.md R35). -/
theorem statusWriteClear_err_errcode (v : Word) (st : Status) :
    ((statusWriteClear v st).err = st.err ∧ (statusWriteClear v st).errcode = st.errcode) ∨
    ((statusWriteClear v st).err = false ∧ (statusWriteClear v st).errcode = 0) := by
  by_cases hv : v.getLsbD 2 = true
  · exact .inr ⟨if_pos hv, if_pos hv⟩
  · exact .inl ⟨if_neg hv, if_neg hv⟩

/-! ### The completion after a dropped write -/

/-- `r` is a command's outcome from `s`, and `r'` its outcome after a write was dropped there: the same next state, but for
the ERR and the code 4 that stay where the command raised nothing (R278). -/
def droppedOutcome (s : State) (r r' : Result) : Prop :=
  ∀ t, r = .next t → ∃ u, r' = .next u ∧ (u = dropWrite t ∨ (u = t ∧ ∃ e, t = raise e s))

theorem droppedOutcome_next (s t : State) : droppedOutcome s (.next t) (.next (dropWrite t)) := by
  rintro _ ⟨⟩
  exact ⟨_, rfl, .inl rfl⟩

/-- An error that is raised overwrites ERR and ERRCODE (60_exceptions.md R280, R285). -/
theorem droppedOutcome_raise (e : EngineError) (s : State) :
    droppedOutcome s (.next (raise e s)) (.next (raise e (dropWrite s))) := by
  rintro _ ⟨⟩
  exact ⟨_, rfl, .inr ⟨rfl, e, rfl⟩⟩

theorem droppedOutcome_refused (s : State) (r : Refusal) (r' : Result) : droppedOutcome s (.refused r) r' := nofun

theorem droppedOutcome_fault (s : State) (f : Fault) (r' : Result) : droppedOutcome s (.fault f) r' := nofun

/-- A check whose condition the dropped write does not move is decided as before. -/
theorem droppedOutcome_ite {s : State} {c : Prop} [Decidable c] {a b a' b' : Result} (ha : droppedOutcome s a a')
    (hb : droppedOutcome s b b') : droppedOutcome s (if c then a else b) (if c then a' else b') := by
  by_cases h : c
  · rwa [if_pos h, if_pos h]
  · rwa [if_neg h, if_neg h]

/-- A dropped write keeps KEY_VALID, on which `requireKey` decides. -/
theorem droppedOutcome_requireKey {s : State} {act : State → Result} (h : droppedOutcome s (act s) (act (dropWrite s))) :
    droppedOutcome s (requireKey s act) (requireKey (dropWrite s) act) := by
  cases hk : s.status.keyValid with
  | true => rwa [requireKey_of_valid act hk, requireKey_of_valid (s := dropWrite s) act hk]
  | false =>
    rw [requireKey_of_invalid act hk, requireKey_of_invalid (s := dropWrite s) act hk]
    exact droppedOutcome_raise .noKey s

theorem droppedOutcome_encryptBlock (x : Block) (s : State) :
    droppedOutcome s (encryptBlock x s) (encryptBlock x (dropWrite s)) := by
  refine droppedOutcome_ite ?_ (droppedOutcome_refused s _ _)
  rw [dropWrite_ctrl]
  cases s.ctrl.mode <;> exact droppedOutcome_next s _

/-- Every command has the same outcome after a dropped write, but for the ERR and code 4 it keeps (R278). -/
theorem exec_dropWrite (i : Instr) (s : State) : droppedOutcome s (exec i s) (exec i (dropWrite s)) := by
  cases i with
  | keyExpand =>
    cases hp : keySizeParams s.ctrl.keysize with
    | none =>
      rw [exec_keyExpand_of_none hp, exec_keyExpand_of_none (s := dropWrite s) hp]
      exact droppedOutcome_raise .keySize s
    | some p =>
      rw [exec_keyExpand_of_some hp, exec_keyExpand_of_some (s := dropWrite s) hp]
      exact droppedOutcome_next s _
  | encrypt => exact droppedOutcome_requireKey (droppedOutcome_encryptBlock _ s)
  | encryptFinal len => exact droppedOutcome_requireKey (droppedOutcome_encryptBlock _ s)
  | decrypt =>
    simp only [exec, execDecrypt]
    refine droppedOutcome_requireKey ?_
    refine droppedOutcome_ite ?_ (droppedOutcome_refused s _ _)
    rw [dropWrite_ctrl]
    cases s.ctrl.mode <;> exact droppedOutcome_next s _
  | addRoundKey n =>
    simp only [exec, execAddRoundKey]
    refine droppedOutcome_requireKey ?_
    refine droppedOutcome_ite (droppedOutcome_raise .rkIdx s) ?_
    exact droppedOutcome_ite (droppedOutcome_next s _) (droppedOutcome_fault s _ _)
  | chainReset | subBytes | invSubBytes | shiftRows | invShiftRows | mixColumns | invMixColumns =>
    exact droppedOutcome_next s _

/-! ### The statements -/

/-- Settles O21: by offset, a write while BUSY is 1 is dropped, clears flags of STATUS, or is ignored; and no command reads
the two fields that a dropped write moves. -/
theorem busyWritesAreDropped : Obligations.BusyWritesAreDropped := by
  refine ⟨fun s off v hr hb h4 h => hostWrites_dropped_of_offset v hr hb h4 h, fun s off v hr hb ho h4 h => ?_,
    fun i s => exec_dropWrite i s⟩
  by_cases hst : off = 0x04
  · subst hst
    exact ⟨writeStatus v s, hostWrites_writeReg status_standsAt hr v, fun hne => absurd rfl hne, rfl, hb, rfl,
      fun hd => by simp [hd], statusWriteClear_err_errcode v s.status⟩
  · exact ⟨s, hostWrites_ignored_of_offset v hr h4 ho (h.resolve_left hst), fun _ => rfl, rfl, hb, rfl, id,
      .inl ⟨rfl, rfl⟩⟩

/-- Settles O37: the shared check `requireKey` raises E_NO_KEY, and KEYn writes and E_KEYSIZE clear KEY_VALID. -/
theorem noKeyError : Obligations.NoKeyError := by
  refine ⟨fun s n i hk hi => exec_of_noKey_eq ?_ hk, rfl, fun s w v hr hb => ⟨storeKey w v s, ?_, rfl⟩,
    fun s t hc h => ?_⟩
  · rcases hi with rfl | rfl | rfl | rfl <;> simp [needsKey]
  · exact hostWrites_accepted (storeKey w v) (key_standsAt w) rfl hr hb
  · rw [exec_keyExpand_of_none ((keySizeParams_eq_none_iff _).mpr hc)] at h
    cases h
    rfl

end Sys2Proof.Machine
end

section
/-! PROOFS. The statements of spec/70_reset_and_hazards.md: asserting `rst` (R310, R311) and accesses made while it is
asserted (R312).  While it is asserted the engine's turn does nothing (`engineTurn_of_rst`), and a host access moves at
most the bus log and the draw counter, which are the model's own (`sameEngine_hostAccess_of_rst`). -/

namespace Sys2Proof.Machine

/-! ### The engine and the host while `rst` is asserted -/

theorem pendingWord_of_rst {s : State} (hr : s.rst = true) : pendingWord s = none := by
  simp [pendingWord, hr]

/-- The engine executes nothing while `rst` is asserted (R310). -/
theorem engineTurn_of_rst {s : State} (hr : s.rst = true) : engineTurn s = .next s := by
  simp [engineTurn, pendingWord_of_rst hr]

/-- No access made while `rst` is asserted moves the engine (R312): `answerAccess` then writes no register. -/
theorem sameEngine_hostAccess_of_rst {s : State} (hr : s.rst = true) (a : Access) : sameEngine s (hostAccess a s) := by
  rcases answerAccess_cases a s with h | h | ⟨hr', -⟩
  · rw [hostAccess, h]
    rfl
  · rw [hostAccess, h]
    rfl
  · simp [hr] at hr'

/-- An admitted read of the window draws a free word while `rst` is asserted, whatever stands at its offset (R312). -/
theorem hostReads_anyWord_of_rst {off : Nat} {s : State} (hr : s.rst = true) (ho : off < 0x100) (h4 : off % 4 = 0) :
    hostReads s off (anyWord s).1 (anyWord s).2 :=
  hostReads_of_readReg ho h4 fun _ => if_pos hr

/-! ### The statements -/

/-- Settles O10: a host turn is `hostAccess`, which keeps the engine under `rst`, and an admitted read is `anyWord`. -/
theorem accessUnderRstHasNoEffect : Obligations.AccessUnderRstHasNoEffect := by
  refine fun s rest hr => ⟨fun a => ⟨hostAccess a { s with schedule := rest }, rfl, ?_, hostAccess_schedule a _⟩,
    fun _ => hostReads_anyWord_of_rst hr⟩
  have hsched : sameEngine s { s with schedule := rest } := rfl
  exact hsched.trans (sameEngine_hostAccess_of_rst (s := { s with schedule := rest }) hr a)

/-- Settles O9: the state after the turn is `assertReset`, its registers are those of `State.reset` (`resetValues`), and
`rst` then stops the engine. -/
theorem assertingRstResetsEverything : Obligations.AssertingRstResetsEverything := by
  obtain ⟨hctrl, -, -, -, -, hstatus, -, hkey, hdata, -, hpend, hirq⟩ := resetValues
  exact fun s rest => ⟨assertReset { s with schedule := rest }, rfl, rfl, rfl, rfl, hctrl, hstatus,
    fun w => (hkey w).1, hdata, rfl, hpend, hirq,
    fun rest' => engineTurn_of_rst (s := { assertReset s with schedule := rest' }) rfl⟩

end Sys2Proof.Machine
end

section
/-! PROOFS. The statements of spec/30_encoding.md on the encoder (R97) and the words of 95_test_vectors.md V8.1.  A row of the
opcode map builds a command whose word is the row's `match` with the bits the mask leaves out put back (`encode_build`), so
a word that matches a row is the word of the command it decodes to. -/

namespace Sys2Proof.Machine

/-! ### The encoder and the rows of the opcode map -/

/-- The word of a well-formed command decodes to it (R97). -/
theorem decode_encode {i : Instr} (h : i.wf = true) : decode (encode i) = .ok i := by
  cases i with
  | encryptFinal len => exact decode_encryptFinal len (of_decide_eq_true h)
  | addRoundKey idx => exact decode_addRoundKey idx (of_decide_eq_true h)
  | keyExpand | chainReset | encrypt | decrypt | subBytes | invSubBytes | shiftRows | invShiftRows | mixColumns
  | invMixColumns => decide

/-- LEN, moved to its place, is the word with every other bit cleared (R92). -/
theorem lenField_shiftLeft (w : Word) : BitVec.ofNat 32 (lenField w) <<< 8 = w &&& 0x00000F00#32 := by
  rw [lenField, BitVec.ofNat_toNat]
  ext i hi
  interval_cases i <;> simp

/-- RKIDX, moved to its place, is the word with every other bit cleared (R93). -/
theorem rkidxField_shiftLeft (w : Word) : BitVec.ofNat 32 (rkidxField w) <<< 16 = w &&& 0x000F0000#32 := by
  rw [rkidxField, BitVec.ofNat_toNat]
  ext i hi
  interval_cases i <;> simp

theorem lenField_le (w : Word) : lenField w ≤ 15 := Nat.le_of_lt_succ (w.extractLsb' 8 4).isLt

theorem rkidxField_le (w : Word) : rkidxField w ≤ 15 := Nat.le_of_lt_succ (w.extractLsb' 16 4).isLt

/-- The bits a row's mask leaves out are the operand of the command it builds (R94). -/
theorem encode_build (w : Word) : ∀ r ∈ opcodeMap, encode (r.build w) = r.value ||| (w &&& ~~~r.mask) := by
  simp [opcodeMap, encode, lenField_shiftLeft, rkidxField_shiftLeft]

theorem wf_build (w : Word) : ∀ r ∈ opcodeMap, (r.build w).wf = true := by
  simp [opcodeMap, Instr.wf, lenField_le, rkidxField_le]

/-- A word is its bits under a mask together with the rest. -/
theorem and_or_and_not (w m : Word) : w &&& m ||| (w &&& ~~~m) = w := by
  rw [← BitVec.and_or_distrib_left, BitVec.or_not_self, BitVec.and_allOnes]

/-- A word that decodes is the word of the command, which is well-formed (R94, R97). -/
theorem encode_of_decode {w : Word} {i : Instr} (h : decode w = .ok i) : i.wf = true ∧ encode i = w := by
  obtain ⟨r, hr, hm, rfl⟩ := decode_eq_ok h
  exact ⟨wf_build w r hr, by rw [encode_build w r hr, ← hm, and_or_and_not]⟩

/-! ### The statements -/

/-- Settles O1: `decode_encode` from commands to words, `encode_of_decode` from words to commands. -/
theorem decodeUndoesEncode : Obligations.DecodeUndoesEncode :=
  ⟨fun _ => decode_encode, fun _ _ => encode_of_decode⟩

/-- Settles O4: each word is the word of its command. -/
theorem specWordsDecode : Obligations.SpecWordsDecode :=
  ⟨decode_encode (i := .keyExpand) rfl, decode_encode (i := .chainReset) rfl, decode_encode (i := .encrypt) rfl,
    decode_encode (i := .decrypt) rfl, decode_encode (i := .encryptFinal 15) rfl, decode_encode (i := .subBytes) rfl,
    decode_encode (i := .invSubBytes) rfl, decode_encode (i := .shiftRows) rfl, decode_encode (i := .invShiftRows) rfl,
    decode_encode (i := .mixColumns) rfl, decode_encode (i := .invMixColumns) rfl,
    decode_encode (i := .addRoundKey 14) rfl⟩

end Sys2Proof.Machine
end

section
/-! PROOFS. What a host access leaves alone (spec/20_memory.md sections 2 to 4): a read, and an access outside the window,
write no register; and while a command is pending a register write moves STATUS only (spec/10_state.md R32).  The register
map (R20) is that of `standsAt`. -/

namespace Sys2Proof.Machine

/-! ### Accesses that write no register -/

/-- A read of whatever address and width leaves the engine as it is (20_memory.md R65). -/
theorem sameEngine_hostAccess_read (addr width : Nat) (s : State) : sameEngine s (hostAccess (.read addr width) s) := by
  rcases answerAccess_cases (.read addr width) s with h | h | ⟨-, _, _, ha, -⟩
  · rw [hostAccess, h]
    rfl
  · rw [hostAccess, h]
    rfl
  · cases ha

theorem inWindow_eq_false {addr : Nat} (h : addr < Config.base ∨ Config.base + 0x100 ≤ addr) :
    inWindow addr = false := by
  rw [inWindow, decide_eq_false_iff_not]
  omega

/-- A read outside the window is not this slave's (R67). -/
theorem answerAccess_read_outside {addr : Nat} (h : addr < Config.base ∨ Config.base + 0x100 ≤ addr) (width : Nat)
    (s : State) : answerAccess (.read addr width) s = (.notSelected, s) := by
  simp [answerAccess, inWindow_eq_false h]

/-- A write outside the window is not this slave's (R67). -/
theorem answerAccess_write_outside {addr : Nat} (h : addr < Config.base ∨ Config.base + 0x100 ≤ addr) (width : Nat)
    (v : Word) (s : State) : answerAccess (.write addr width v) s = (.notSelected, s) := by
  simp [answerAccess, inWindow_eq_false h]

/-! ### Accesses while a command is pending -/

/-- `t` differs from `s` in STATUS and the draw counter only, and there it keeps BUSY = 1, KEY_VALID and DONE = 0. -/
def keepsOperands (s t : State) : Prop :=
  ∃ st n, t = { s with status := st, draws := n } ∧
    st.busy = true ∧ st.keyValid = s.status.keyValid ∧ (s.status.done = false → st.done = false)

/-- While BUSY is 1 a register write does nothing, clears flags, or is dropped (10_state.md R32, R35). -/
theorem keepsOperands_writeReg {s : State} (hb : s.status.busy = true) (r : Reg) (v : Word) :
    keepsOperands s (writeReg r v s) := by
  rcases writeReg_cases r v s with ⟨h, -⟩ | ⟨-, h⟩ | ⟨-, h, -⟩ | ⟨hb', -⟩
  · exact ⟨_, _, h, hb, rfl, id⟩
  · exact ⟨_, _, h, hb, rfl, fun hd => by simp [hd]⟩
  · exact ⟨_, _, h, hb, rfl, id⟩
  · exact absurd (hb.symm.trans hb') (by decide)

theorem keepsOperands_answerAccess {s : State} (hb : s.status.busy = true) (a : Access) :
    keepsOperands s (answerAccess a s).2 := by
  rcases answerAccess_cases a s with h | h | ⟨-, addr, v, -, -, -, h⟩
  · exact ⟨_, _, h, hb, rfl, id⟩
  · exact ⟨_, _, h, hb, rfl, id⟩
  · exact h ▸ keepsOperands_writeReg hb _ v

/-! ### The register map -/

theorem standsAt.regAt_eq {r : Reg} {off : Nat} (h : standsAt r off) : regAt off = r := by
  obtain ⟨-, -, hreg⟩ := h
  exact hreg

/-! ### The statements -/

/-- Settles O22: a read and an access outside the window write no register, and under `rst` no access does. -/
theorem readsHaveNoSideEffect : Obligations.ReadsHaveNoSideEffect := by
  refine ⟨fun s addr width rest => ⟨_, rfl, ?_, hostAccess_schedule _ _⟩, fun s addr width v rest h => ⟨?_, ?_⟩,
    fun s off width v rest hr ho => ⟨fun h => ⟨?_, ?_⟩, fun h4 => ?_⟩⟩
  · have hsched : sameEngine s { s with schedule := rest } := rfl
    exact hsched.trans (sameEngine_hostAccess_read addr width _)
  · exact step_host_of_answer (answerAccess_read_outside h width) s rest
  · exact step_host_of_answer (answerAccess_write_outside h width v) s rest
  · exact step_host_of_answer (answerAccess_read_inadmissible ho h) s rest
  · exact step_host_of_answer (answerAccess_write_inadmissible ho h v) s rest
  · exact hostWrites_of_writeReg ho h4 fun _ => if_pos hr

/-- Settles O24: the access is answered as `keepsOperands_answerAccess` says, and then logged. -/
theorem pendingCommandKeepsItsOperands : Obligations.PendingCommandKeepsItsOperands := by
  intro s a rest hb
  obtain ⟨st, n, heq, hst⟩ := keepsOperands_answerAccess (s := { s with schedule := rest }) hb a
  exact ⟨_, congrArg Host.Outcome.next (congrArg (logTransaction a _) heq), rfl, hst⟩

/-- Settles O12: the offsets of the registers are those `standsAt` lists, and the ranges of `regAt` leave out the others. -/
theorem addressMap : Obligations.AddressMap := by
  refine ⟨Nat.mul_mod_right 256 _, ctrl_standsAt.regAt_eq, status_standsAt.regAt_eq, cmd_standsAt.regAt_eq,
    fun w => (key_standsAt w).regAt_eq, fun w => ⟨(din_standsAt w).regAt_eq, (dout_standsAt w).regAt_eq⟩,
    fun off ho h4 => ⟨?_, ?_⟩⟩
  · intro h
    by_contra hne
    rw [regAt] at h
    split_ifs at h
    omega
  · exact fun h => (reserved_standsAt h4 (by omega)).regAt_eq

end Sys2Proof.Machine
end

section
/-! PROOFS. STATUS as a register word (spec/10_state.md R28), and the order of turns (spec/70_reset_and_hazards.md sections 1
and 3): each clause is the step of one kind of turn. -/

namespace Sys2Proof.Machine

/-! ### The remaining bits of STATUS -/

theorem statusWord_bit_busy (st : Status) : (statusWord st).getLsbD 0 = st.busy := by
  simp [statusWord]

theorem statusWord_bit_keyValid (st : Status) : (statusWord st).getLsbD 3 = st.keyValid := by
  simp [statusWord]

theorem statusWord_errcode (st : Status) : (statusWord st).extractLsb' 4 4 = st.errcode := by
  ext i hi
  interval_cases i <;> simp [statusWord]

theorem statusWord_bits_above (st : Status) : (statusWord st).extractLsb' 8 24 = 0 := by
  ext i hi
  interval_cases i <;> simp [statusWord]

/-- Settles O14: the read of STATUS is `statusWord`, whose bits are the fields. -/
theorem statusReadsItsFields : Obligations.StatusReadsItsFields := by
  refine ⟨fun s hr => ⟨_, hostReads_readReg status_standsAt hr, ?_⟩, hostReads_readReg status_standsAt rfl⟩
  exact ⟨statusWord_bit_busy _, statusWord_bit_done _, statusWord_bit_err _, statusWord_bit_keyValid _,
    statusWord_errcode _, statusWord_bits_above _⟩

/-! ### The turns -/

/-- With an empty schedule the engine moves (R315). -/
theorem step_of_empty {s : State} (h : s.schedule = []) : step s = engineTurn s := by
  rw [step, h]

/-- With nothing pending, or under `rst`, there is no word to decode (R310; 10_state.md R29). -/
theorem pendingWord_eq_none {s : State} (h : s.status.busy = false ∨ s.rst = true) : pendingWord s = none := by
  rcases h with h | h <;> simp [pendingWord, h]

theorem engineTurn_of_none {s : State} (h : pendingWord s = none) : engineTurn s = .next s := by
  rw [engineTurn, h]

/-- Settles O5: the engine's turn decodes the pending word and performs its command. -/
theorem engineTurnRunsTheDecodedCommand : Obligations.EngineTurnRunsTheDecodedCommand := fun s _ hp hd =>
  ⟨fun rest => engineTurn_of_pending (s := { s with schedule := rest }) hp hd,
    fun h => (step_of_empty h).trans (engineTurn_of_pending hp hd)⟩

/-- Settles O6: the placed word is pending in the state `withFetchWord` leaves, with the engine's turn at the head. -/
theorem placedWordRunsNext : Obligations.PlacedWordRunsNext := by
  intro s w i hw hd
  have hword : tableWord 32 w = BitVec.ofNat 32 w := by rw [tableWord, Nat.mod_eq_of_lt hw]
  rw [State.withFetchWord, hword]
  exact engineTurn_of_pending (s := { acceptCmd (BitVec.ofNat 32 w) s with rst := false }) ⟨rfl, rfl, rfl⟩ hd

/-- Settles O7: by the definition of a step, and with no word pending the engine's turn leaves the state as it is. -/
theorem turnsAreTakenInOrder : Obligations.TurnsAreTakenInOrder := fun s rest =>
  ⟨fun _ => rfl, rfl, rfl, fun h =>
    ⟨engineTurn_of_none (s := { s with schedule := rest }) (pendingWord_eq_none h),
      fun hs => (step_of_empty hs).trans (engineTurn_of_none (pendingWord_eq_none h))⟩⟩

end Sys2Proof.Machine
end

section
/-! PROOFS. The printed tables of spec/41_state_transforms.md (R140, R144).  A table has 256 entries, and the kernel compares
each with its formula; that the S-box is the affine image of *the* inverse then follows because the product of the field is
associative and commutative. -/

namespace Sys2Proof.Machine

/-! ### The multiplicative inverse -/

/-- The inverse of a non-zero byte, read off SBOX by undoing the affine map of R140. -/
def inverseByte (x : Byte) : Byte :=
  (sbox x).rotateRight 2 ^^^ (sbox x).rotateRight 5 ^^^ (sbox x).rotateRight 7 ^^^ 0x05#8

/-- Entry by entry: `inverseByte` is an inverse, and SBOX is its affine image (R140). -/
theorem sbox_eq_affine_inverseByte : ∀ x : Byte, x ≠ 0 → gmul x (inverseByte x) = 1 ∧ sbox x = affine (inverseByte x) := by
  decide +kernel

/-- An inverse in the field is unique. -/
theorem eq_of_gmul_eq_one {x y z : Byte} (hy : gmul x y = 1) (hz : gmul x z = 1) : y = z :=
  calc y
    _ = gmul y (gmul x z) := by rw [hz, gmul_one]
    _ = gmul (gmul x y) z := by rw [← gmul_assoc, gmul_comm y x]
    _ = z := by rw [hy, one_gmul]

/-- Zero has no inverse. -/
theorem ne_zero_of_gmul_eq_one {x y : Byte} (h : gmul x y = 1) : x ≠ 0 := by
  rintro rfl
  rw [zero_gmul] at h
  exact absurd h (by decide)

/-! ### The statements -/

/-- Settles O50: each of the six printed tables, entry by entry. -/
theorem multiplicationTables : Obligations.MultiplicationTables := by
  intro k hk
  fin_cases hk <;> decide +kernel

/-- Settles O51: SBOX is the affine image of `inverseByte`, which is the only inverse there is. -/
theorem sboxIsAffineOfInverse : Obligations.SboxIsAffineOfInverse := by
  refine ⟨by decide, fun x hx => ⟨_, sbox_eq_affine_inverseByte x hx⟩, fun x y hxy => ?_,
    fun x => ⟨invSbox_sbox x, sbox_invSbox x⟩⟩
  obtain ⟨hinv, hsbox⟩ := sbox_eq_affine_inverseByte x (ne_zero_of_gmul_eq_one hxy)
  rw [hsbox, eq_of_gmul_eq_one hxy hinv]

end Sys2Proof.Machine
end

section
/-! PROOFS. The invariant of the engine (spec/10_state.md sections 4, 7 and 8).  Three of its clauses speak of STATUS alone and
are kept by every way of writing it (`StatusOk`); the clause on KEY_VALID moves only with RK, NR and the key registers, so
a step that leaves those keeps the invariant (`EngineInv.of_sameSchedule`), and KEY_EXPAND restores it. -/

namespace Sys2Proof.Machine

/-! ### The clauses on STATUS -/

/-- The clauses of `EngineInv` that speak of STATUS alone (10_state.md R31, R36; 60_exceptions.md R270). -/
structure StatusOk (st : Status) : Prop where
  busy_not_done : st.busy = true → st.done = false
  err_iff_code : st.err = true ↔ st.errcode ≠ 0
  code_not_reserved : st.errcode.toNat ≤ 5

theorem EngineInv.statusOk {s : State} (h : EngineInv s) : StatusOk s.status :=
  ⟨h.busy_not_done, h.err_iff_code, h.code_not_reserved⟩

/-- Every engine error has a code, and none is reserved (60_exceptions.md R270). -/
theorem errorCode_ne_zero (e : EngineError) : errorCode e ≠ 0 := by cases e <;> decide

theorem errorCode_le (e : EngineError) : (errorCode e).toNat ≤ 5 := by cases e <;> decide

theorem statusOk_reset : StatusOk Status.reset := ⟨nofun, by decide, by decide⟩

theorem statusOk_raised (e : EngineError) (st : Status) : StatusOk (statusRaised e st) :=
  ⟨nofun, iff_of_true rfl (errorCode_ne_zero e), errorCode_le e⟩

section
variable {st : Status} (h : StatusOk st)
include h

theorem StatusOk.accepted : StatusOk (statusAccepted st) := ⟨fun _ => rfl, h.err_iff_code, h.code_not_reserved⟩

theorem StatusOk.completed : StatusOk (statusCompleted st) := ⟨nofun, h.err_iff_code, h.code_not_reserved⟩

theorem StatusOk.busyError : StatusOk (statusBusyError st) :=
  ⟨h.busy_not_done, iff_of_true rfl (errorCode_ne_zero .busy), errorCode_le .busy⟩

theorem StatusOk.writeClear (v : Word) : StatusOk (statusWriteClear v st) := by
  have hdone : st.busy = true → (statusWriteClear v st).done = false := fun hb => by simp [h.busy_not_done hb]
  rcases statusWriteClear_err_errcode v st with ⟨he, hc⟩ | ⟨he, hc⟩
  · exact ⟨hdone, by rw [he, hc]; exact h.err_iff_code, by rw [hc]; exact h.code_not_reserved⟩
  · exact ⟨hdone, by rw [he, hc]; decide, by rw [hc]; decide⟩

end

/-! ### The invariant, by what a transition leaves -/

theorem holdsSchedule_congr {s t : State} (hkey : t.key = s.key) (hrk : t.rk = s.rk) (hnr : t.nr = s.nr) :
    holdsSchedule t ↔ holdsSchedule s := by
  simp only [holdsSchedule, hkey, hrk, hnr]

/-- With `rst` not asserted, the clauses on STATUS and on KEY_VALID are the invariant. -/
theorem engineInv_of_running {t : State} (hst : StatusOk t.status) (hr : t.rst = false)
    (hk : t.status.keyValid = true → holdsSchedule t) : EngineInv t where
  busy_not_done := hst.busy_not_done
  err_iff_code := hst.err_iff_code
  code_not_reserved := hst.code_not_reserved
  key_valid := hk
  rst_status hr' := absurd (hr.symm.trans hr') (by decide)

/-- With `rst` not asserted, a transition that leaves KEY, RK and NR and does not set KEY_VALID keeps the invariant. -/
theorem EngineInv.of_sameSchedule {s t : State} (h : EngineInv s) (hst : StatusOk t.status) (hr : t.rst = false)
    (hk : t.status.keyValid = true → s.status.keyValid = true) (hkey : t.key = s.key) (hrk : t.rk = s.rk)
    (hnr : t.nr = s.nr) : EngineInv t :=
  engineInv_of_running hst hr fun hv => (holdsSchedule_congr hkey hrk hnr).mpr (h.key_valid (hk hv))

/-- Where KEY_VALID is 0, the clauses on STATUS and `rst` are the invariant. -/
theorem engineInv_of_invalid {t : State} (hst : StatusOk t.status) (hk : t.status.keyValid = false)
    (hr : t.rst = true → t.status = Status.reset) : EngineInv t where
  busy_not_done := hst.busy_not_done
  err_iff_code := hst.err_iff_code
  code_not_reserved := hst.code_not_reserved
  key_valid hv := absurd (hk.symm.trans hv) (by decide)
  rst_status := hr

/-- The invariant does not speak of the model's own fields. -/
theorem EngineInv.of_sameEngine {s t : State} (h : EngineInv s) (hst : sameEngine s t) : EngineInv t := by
  obtain ⟨_, _, _, rfl⟩ := sameEngine_iff.mp hst
  exact ⟨h.busy_not_done, h.err_iff_code, h.code_not_reserved, h.key_valid, h.rst_status⟩

/-! ### The invariant through commands, accesses and reset -/

/-- KEY_EXPAND leaves the schedule of the key registers (42_key_schedule.md R186). -/
theorem holdsSchedule_expandKey {s : State} {nb nr : Nat} (h : keySizeParams s.ctrl.keysize = some (nb, nr)) :
    holdsSchedule (expandKey nb nr s) := by
  have htake := take_rk_expandKey h
  rw [scheduleOfKey] at htake
  rw [holdsSchedule, expandKey_key]
  rcases (keySizeParams_eq_some_iff _ _ _).mp h with ⟨-, rfl, rfl⟩ | ⟨-, rfl, rfl⟩
  · exact .inl ⟨rfl, htake⟩
  · exact .inr ⟨rfl, htake⟩

@[simp] theorem expandKey_rst (nb nr : Nat) (s : State) : (expandKey nb nr s).rst = s.rst := by simp [expandKey]

theorem EngineInv.of_raise {s : State} (h : EngineInv s) (hr : s.rst = false) (e : EngineError) :
    EngineInv (raise e s) := by
  refine h.of_sameSchedule (statusOk_raised e s.status) hr (fun hv => ?_) rfl rfl rfl
  simp only [raise_status, statusRaised_keyValid] at hv
  split at hv
  · cases hv
  · exact hv

theorem EngineInv.of_expandKey {s : State} {nb nr : Nat} (h : EngineInv s) (hr : s.rst = false)
    (hp : keySizeParams s.ctrl.keysize = some (nb, nr)) : EngineInv (expandKey nb nr s) := by
  refine engineInv_of_running ?_ ((expandKey_rst nb nr s).trans hr) fun _ => holdsSchedule_expandKey hp
  rw [expandKey_status]
  exact ⟨nofun, h.err_iff_code, h.code_not_reserved⟩

/-- Every command keeps the invariant. -/
theorem EngineInv.of_exec {i : Instr} {s t : State} (h : EngineInv s) (hr : s.rst = false) (hx : exec i s = .next t) :
    EngineInv t := by
  have hdone := h.statusOk.completed
  rcases exec_cases hx with ⟨-, -, rfl⟩ | ⟨-, rfl⟩ | ⟨-, -, rfl⟩ | ⟨-, nb, nr, hp, rfl⟩ | ⟨-, rfl⟩ | ⟨-, -, o, rfl⟩ |
    ⟨-, -, o, M, rfl⟩
  · exact h.of_raise hr .keySize
  · exact h.of_raise hr .noKey
  · exact h.of_raise hr .rkIdx
  · exact h.of_expandKey hr hp
  · exact h.of_sameSchedule hdone hr id rfl rfl rfl
  · exact h.of_sameSchedule hdone hr id rfl rfl rfl
  · exact h.of_sameSchedule hdone hr id rfl rfl rfl

theorem EngineInv.of_engineTurn {s t : State} (h : EngineInv s) (hx : engineTurn s = .next t) : EngineInv t := by
  rcases engineTurn_cases hx with ⟨-, rfl⟩ | ⟨⟨hr, -⟩, i, -, hi⟩ | ⟨⟨hr, -⟩, -, rfl⟩
  · exact h
  · exact h.of_exec hr hi
  · exact h.of_raise hr .illegalCmd

/-- A register write keeps the invariant: a KEYn write, which may leave RK stale, clears KEY_VALID (10_state.md R37). -/
theorem EngineInv.of_writeReg {s : State} (h : EngineInv s) (hr : s.rst = false) (r : Reg) (v : Word) :
    EngineInv (writeReg r v s) := by
  have hst := h.statusOk
  rcases writeReg_cases r v s with ⟨hw, -⟩ | ⟨-, hw⟩ | ⟨-, hw, -⟩ | ⟨-, ⟨-, hw⟩ | ⟨-, hw⟩ | ⟨w, -, hw⟩ | ⟨w, -, hw⟩⟩ <;>
    rw [hw]
  · exact h
  · exact h.of_sameSchedule (hst.writeClear v) hr id rfl rfl rfl
  · exact h.of_sameSchedule hst.busyError hr id rfl rfl rfl
  · exact h.of_sameSchedule hst hr id rfl rfl rfl
  · exact h.of_sameSchedule hst.accepted hr id rfl rfl rfl
  · exact engineInv_of_invalid ⟨hst.busy_not_done, hst.err_iff_code, hst.code_not_reserved⟩ rfl
      fun hr' => absurd (hr.symm.trans hr') (by decide)
  · exact h.of_sameSchedule hst hr id rfl rfl rfl

theorem EngineInv.of_hostAccess {s : State} (h : EngineInv s) (a : Access) : EngineInv (hostAccess a s) := by
  have hans : EngineInv (answerAccess a s).2 := by
    rcases answerAccess_cases a s with hw | hw | ⟨hr, addr, v, -, -, -, hw⟩ <;> rw [hw]
    · exact h
    · exact h.of_sameEngine rfl
    · exact h.of_writeReg hr _ v
  exact hans.of_sameEngine rfl

/-- Releasing `rst` changes only its level. -/
theorem EngineInv.of_releaseReset {s : State} (h : EngineInv s) : EngineInv (releaseReset s) :=
  h.of_sameSchedule h.statusOk rfl id rfl rfl rfl

/-! ### The statements -/

/-- Settles O44: the reset STATUS is well-formed and has KEY_VALID = 0, so nothing is asked of RK and NR. -/
theorem invariantAtReset : Obligations.InvariantAtReset :=
  engineInv_of_invalid statusOk_reset rfl fun _ => rfl

/-- Settles O43: by the kind of turn the step plays. -/
theorem invariantIsKept : Obligations.InvariantIsKept := by
  intro s t h hstep
  obtain ⟨rest, -, ⟨-, hx⟩ | ⟨a, -, rfl⟩ | ⟨-, rfl⟩ | ⟨-, rfl⟩⟩ := step_cases hstep
  all_goals have h' : EngineInv { s with schedule := rest } := h.of_sameEngine rfl
  · exact h'.of_engineTurn hx
  · exact h'.of_hostAccess a
  · exact engineInv_of_invalid statusOk_reset rfl fun _ => rfl
  · exact h'.of_releaseReset

end Sys2Proof.Machine
end

section
/-! PROOFS. What every command leaves alone (spec/10_state.md sections 5 to 7), how it ends (spec/60_exceptions.md sections 3
and 4), and what can move RK, NR and CV in one step (spec/10_state.md section 7).  Everything is read off `exec_cases`. -/

namespace Sys2Proof.Machine

/-! ### The end and the frame of a command -/

/-- Settles O38: a command that raises an error is `raise`, and the others end in `complete`, which keeps ERR and ERRCODE. -/
theorem commandsSucceedOrRaiseOneError : Obligations.CommandsSucceedOrRaiseOneError := by
  intro i s t h
  rcases exec_cases h with ⟨hi, -, rfl⟩ | ⟨hk, rfl⟩ | ⟨hi, hk, rfl⟩ | ⟨hi, nb, nr, -, rfl⟩ | ⟨-, rfl⟩ | ⟨-, -, o, rfl⟩ |
    ⟨-, -, o, M, rfl⟩
  · exact ⟨rfl, rfl, .inr ⟨.keySize, .inl ⟨rfl, hi⟩, rfl⟩⟩
  · exact ⟨rfl, rfl, .inr ⟨.noKey, .inr (.inl ⟨rfl, hk⟩), rfl⟩⟩
  · exact ⟨rfl, rfl, .inr ⟨.rkIdx, .inr (.inr ⟨rfl, hk, hi⟩), rfl⟩⟩
  · rw [expandKey_status]
    exact ⟨rfl, rfl, .inl ⟨rfl, rfl, .inr ⟨hi, rfl⟩⟩⟩
  · exact ⟨rfl, rfl, .inl ⟨rfl, rfl, .inl rfl⟩⟩
  · exact ⟨rfl, rfl, .inl ⟨rfl, rfl, .inl rfl⟩⟩
  · exact ⟨rfl, rfl, .inl ⟨rfl, rfl, .inl rfl⟩⟩

/-- No command writes CTRL, the key registers, DIN, PEND, `rst`, or the host's schedule and bus log. -/
theorem exec_frame {i : Instr} {s t : State} (h : exec i s = .next t) :
    t.ctrl = s.ctrl ∧ t.key = s.key ∧ t.din = s.din ∧ t.pend = s.pend ∧ t.rst = s.rst ∧ t.schedule = s.schedule ∧
      t.bus = s.bus := by
  rcases exec_cases h with ⟨-, -, rfl⟩ | ⟨-, rfl⟩ | ⟨-, -, rfl⟩ | ⟨-, nb, nr, -, rfl⟩ | ⟨-, rfl⟩ | ⟨-, -, o, rfl⟩ |
    ⟨-, -, o, M, rfl⟩ <;> simp [expandKey]

/-- Only KEY_EXPAND writes the round-key store, NR and the draw counter (10_state.md R40, R41). -/
theorem exec_rk_nr_draws {i : Instr} {s t : State} (h : exec i s = .next t) (hi : i ≠ .keyExpand) :
    t.rk = s.rk ∧ t.nr = s.nr ∧ t.draws = s.draws := by
  rcases exec_cases h with ⟨hi', -⟩ | ⟨-, rfl⟩ | ⟨-, -, rfl⟩ | ⟨hi', -⟩ | ⟨-, rfl⟩ | ⟨-, -, o, rfl⟩ | ⟨-, -, o, M, rfl⟩
  · exact absurd hi' hi
  · exact ⟨rfl, rfl, rfl⟩
  · exact ⟨rfl, rfl, rfl⟩
  · exact absurd hi' hi
  · exact ⟨rfl, rfl, rfl⟩
  · exact ⟨rfl, rfl, rfl⟩
  · exact ⟨rfl, rfl, rfl⟩

/-- The commands that may write CV (10_state.md R42). -/
theorem exec_cv_ne {i : Instr} {s t : State} (h : exec i s = .next t) (hcv : t.cv ≠ s.cv) :
    i = .keyExpand ∨ i = .chainReset ∨
      (s.ctrl.mode = .cbc ∧ (i = .encrypt ∨ i = .decrypt ∨ ∃ n, i = .encryptFinal n)) := by
  rcases exec_cases h with ⟨hi, -⟩ | ⟨-, rfl⟩ | ⟨-, -, rfl⟩ | ⟨hi, -⟩ | ⟨hi, -⟩ | ⟨-, -, o, rfl⟩ | ⟨hm, hi, -⟩
  · exact .inl hi
  · exact absurd rfl hcv
  · exact absurd rfl hcv
  · exact .inl hi
  · exact .inr (.inl hi)
  · exact absurd rfl hcv
  · exact .inr (.inr ⟨hm, hi⟩)

/-- Settles O39: `exec_frame`, and the fields that some command may write, one by one. -/
theorem commandFrame : Obligations.CommandFrame := by
  intro i s t h
  obtain ⟨hctrl, hkey, hdin, hpend, hrst, hsched, hbus⟩ := exec_frame h
  refine ⟨hctrl, hkey, hdin, hpend, hrst, hsched, hbus, exec_rk_nr_draws h, exec_cv_ne h, fun hi => ?_⟩
  by_contra hd
  obtain ⟨hk, hc, -⟩ := exec_dout_ne h hd
  exact hi.elim hk hc

/-! ### RK, NR and CV in one step -/

/-- A KEY_EXPAND that moves RK or NR had a legal key size (42_key_schedule.md R186). -/
theorem keysize_of_exec_keyExpand {s t : State} (h : exec .keyExpand s = .next t) (hne : t.rk ≠ s.rk ∨ t.nr ≠ s.nr) :
    s.ctrl.keysize = 0b00#2 ∨ s.ctrl.keysize = 0b10#2 := by
  rw [← keySizeParams_isSome_iff, Option.isSome_iff_ne_none]
  intro hp
  rw [exec_keyExpand_of_none hp] at h
  cases h
  exact hne.elim (absurd rfl) (absurd rfl)

/-- No host access writes RK, NR or CV: they are internal (10_state.md R20). -/
theorem hostAccess_internal (a : Access) (s : State) :
    (hostAccess a s).rk = s.rk ∧ (hostAccess a s).nr = s.nr ∧ (hostAccess a s).cv = s.cv := by
  rcases answerAccess_cases a s with h | h | ⟨-, addr, v, -, -, -, h⟩
  · simp [hostAccess, h]
  · simp [hostAccess, h]
  · rcases writeReg_cases (regAt (offsetOf addr)) v s with ⟨hw, -⟩ | ⟨-, hw⟩ | ⟨-, hw, -⟩ | ⟨-, ⟨-, hw⟩ | ⟨-, hw⟩ |
      ⟨_, -, hw⟩ | ⟨_, -, hw⟩⟩ <;> simp [hostAccess, h, hw]

/-- A step that moves RK, NR or CV asserts `rst` or completes the pending command. -/
theorem step_internal_ne {s t : State} (h : step s = .next t) (hne : t.rk ≠ s.rk ∨ t.nr ≠ s.nr ∨ t.cv ≠ s.cv) :
    assertNext s ∨ (engineNext s ∧ ∃ i rest, pending s (encode i) ∧ i.wf = true ∧
      exec i { s with schedule := rest } = .next t) := by
  obtain ⟨rest, -, ⟨hn, hx⟩ | ⟨a, -, rfl⟩ | ⟨hn, -⟩ | ⟨-, rfl⟩⟩ := step_cases h
  · rcases engineTurn_cases hx with ⟨-, rfl⟩ | ⟨hp, i, hd, hi⟩ | ⟨-, -, rfl⟩
    · simp at hne
    · obtain ⟨hwf, henc⟩ := encode_of_decode hd
      exact .inr ⟨hn, i, rest, henc ▸ hp, hwf, hi⟩
    · simp at hne
  · simp [hostAccess_internal] at hne
  · exact .inl hn
  · simp at hne

/-- Settles O42: the step completes a command, and `exec_rk_nr_draws` and `exec_cv_ne` say which. -/
theorem internalStateMovesOnlyByItsCommands : Obligations.InternalStateMovesOnlyByItsCommands := by
  refine fun s t h => ⟨fun hne => ?_, fun hne => ?_⟩
  · rcases step_internal_ne h (hne.imp_right .inl) with hn | ⟨hn, i, rest, hp, -, hx⟩
    · exact .inl hn
    · obtain rfl : i = .keyExpand := by
        by_contra hi
        obtain ⟨hrk, hnr, -⟩ := exec_rk_nr_draws hx hi
        exact hne.elim (absurd hrk) (absurd hnr)
      exact .inr ⟨hn, hp, keysize_of_exec_keyExpand (s := { s with schedule := rest }) hx hne⟩
  · rcases step_internal_ne h (.inr (.inr hne)) with hn | ⟨hn, i, rest, hp, hwf, hx⟩
    · exact .inl hn
    · refine .inr ⟨hn, i, hp, ?_⟩
      rcases exec_cv_ne hx hne with hi | hi | ⟨hm, hi | hi | ⟨n, rfl⟩⟩
      · exact .inl hi
      · exact .inr (.inl hi)
      · exact .inr (.inr ⟨hm, .inl hi⟩)
      · exact .inr (.inr ⟨hm, .inr (.inl hi)⟩)
      · exact .inr (.inr ⟨hm, .inr (.inr ⟨n, of_decide_eq_true hwf, rfl⟩)⟩)

end Sys2Proof.Machine
end

section
/-! PROOFS. What can move the flags of STATUS in one step (spec/10_state.md section 8).  `step_status` says once how a step
writes STATUS; a flag that moved picks out the ways that move it. -/

namespace Sys2Proof.Machine

/-! ### How a step writes STATUS -/

/-- The next turn writes a register that is guarded by BUSY (60_exceptions.md R278). -/
def guardedWriteNext (s : State) : Prop :=
  ∃ r v, writeNext s r v ∧ r ≠ .status ∧ r ≠ .reserved ∧ ∀ w, r ≠ .dout w

/-- STATUS at the end of a completion: BUSY falls, DONE rises, and an error is recorded or ERR and ERRCODE stay. -/
def completedStatus (st st' : Status) : Prop :=
  st'.busy = false ∧ st'.done = true ∧
  ((st'.err = st.err ∧ st'.errcode = st.errcode) ∨
    (st'.err = true ∧ ∃ e, e ≠ .busy ∧ st'.errcode = errorCode e))

/-- The ways a step writes STATUS (10_state.md R33 to R37, R46; 60_exceptions.md R278, R281). -/
inductive StatusMove (s : State) (st' : Status) : Prop where
  | kept (h : st' = s.status)
  | reset (hn : assertNext s) (h : st' = Status.reset)
  | completed (hn : engineNext s) (hp : pending s s.pend) (h : completedStatus s.status st')
  | writeClear (v : Word) (hn : writeNext s .status v) (h : st' = statusWriteClear v s.status)
  | dropped (hb : s.status.busy = true) (hn : guardedWriteNext s) (h : st' = statusBusyError s.status)
  | accepted (v : Word) (hb : s.status.busy = false) (hn : writeNext s .cmd v) (h : st' = statusAccepted s.status)
  | keyWritten (h : st' = statusKeyWritten s.status)

/-- No command raises E_BUSY, so the code of an error that completes a command is another. -/
theorem completedStatus_of_exec {i : Instr} {s t : State} (h : exec i s = .next t) :
    completedStatus s.status t.status := by
  obtain ⟨hbusy, hdone, ⟨herr, hcode, -⟩ | ⟨e, he, rfl⟩⟩ := commandsSucceedOrRaiseOneError i s t h
  · exact ⟨hbusy, hdone, .inl ⟨herr, hcode⟩⟩
  · refine ⟨rfl, rfl, .inr ⟨rfl, e, ?_, rfl⟩⟩
    rcases he with ⟨rfl, -⟩ | ⟨rfl, -⟩ | ⟨rfl, -⟩ <;> decide

/-- The engine's turn leaves STATUS when nothing is pending, and completes the pending command otherwise. -/
theorem engineTurn_status {s t : State} (h : engineTurn s = .next t) :
    t.status = s.status ∨ (pending s s.pend ∧ completedStatus s.status t.status) := by
  rcases engineTurn_cases h with ⟨-, rfl⟩ | ⟨hp, i, -, hi⟩ | ⟨hp, -, rfl⟩
  · exact .inl rfl
  · exact .inr ⟨hp, completedStatus_of_exec hi⟩
  · exact .inr ⟨hp, rfl, rfl, .inr ⟨rfl, .illegalCmd, by decide, rfl⟩⟩

/-- A write of the register `r` as the next turn moves STATUS in one of these ways. -/
theorem statusMove_writeReg {s : State} {r : Reg} {v : Word} (hn : writeNext s r v) :
    StatusMove s (writeReg r v s).status := by
  rcases writeReg_cases r v s with ⟨h, -⟩ | ⟨rfl, h⟩ | ⟨hb, h, hr⟩ | ⟨hb, ⟨-, h⟩ | ⟨rfl, h⟩ | ⟨w, -, h⟩ | ⟨w, -, h⟩⟩ <;>
    rw [h]
  · exact .kept rfl
  · exact .writeClear v hn rfl
  · exact .dropped hb ⟨r, v, hn, hr⟩ rfl
  · exact .kept rfl
  · exact .accepted v hb hn rfl
  · exact .keyWritten rfl
  · exact .kept rfl

/-- Every step moves STATUS in one of these ways. -/
theorem step_status {s t : State} (h : step s = .next t) : StatusMove s t.status := by
  obtain ⟨rest, -, ⟨hn, hx⟩ | ⟨a, hs, rfl⟩ | ⟨hn, rfl⟩ | ⟨-, rfl⟩⟩ := step_cases h
  · rcases engineTurn_status hx with heq | ⟨hp, hst⟩
    · exact .kept heq
    · exact .completed hn hp hst
  · rw [hostAccess_withSchedule]
    rcases answerAccess_cases a s with ha | ha | ⟨hr, addr, v, rfl, hin, h4, ha⟩ <;>
      simp only [hostAccess, ha, logTransaction_status]
    · exact .kept rfl
    · exact .kept rfl
    · exact statusMove_writeReg ⟨hr, addr, rest, hs, hin, h4, rfl⟩
  · exact .reset hn rfl
  · exact .kept rfl

/-! ### Flag by flag: the moves that can have moved it -/

section
variable {s : State} {st : Status} (hm : StatusMove s st)
include hm

theorem StatusMove.busy_rises (h0 : s.status.busy = false) (h1 : st.busy = true) : ∃ v, writeNext s .cmd v := by
  cases hm with
  | accepted v _ hn => exact ⟨v, hn⟩
  | _ => simp_all [Status.reset, completedStatus]

theorem StatusMove.busy_falls (h1 : s.status.busy = true) (h0 : st.busy = false) :
    assertNext s ∨ (engineNext s ∧ pending s s.pend) := by
  cases hm with
  | reset hn => exact .inl hn
  | completed hn hp => exact .inr ⟨hn, hp⟩
  | _ => simp_all

theorem StatusMove.done_rises (h0 : s.status.done = false) (h1 : st.done = true) : engineNext s ∧ pending s s.pend := by
  cases hm with
  | completed hn hp => exact ⟨hn, hp⟩
  | _ => simp_all [Status.reset]

theorem StatusMove.done_falls (h1 : s.status.done = true) (h0 : st.done = false) : assertNext s ∨
    (s.status.busy = false ∧ ∃ v, writeNext s .cmd v) ∨ ∃ v, v.getLsbD 1 = true ∧ writeNext s .status v := by
  cases hm with
  | reset hn => exact .inl hn
  | accepted v hb hn => exact .inr (.inl ⟨hb, v, hn⟩)
  | writeClear v hn h =>
    refine .inr (.inr ⟨v, ?_, hn⟩)
    by_contra hv
    rw [h, statusWriteClear_done, if_neg hv] at h0
    exact absurd (h0.symm.trans h1) (by decide)
  | _ => simp_all [completedStatus]

theorem StatusMove.err_rises (h0 : s.status.err = false) (h1 : st.err = true) :
    (engineNext s ∧ pending s s.pend) ∨ (s.status.busy = true ∧ guardedWriteNext s) := by
  cases hm with
  | completed hn hp => exact .inl ⟨hn, hp⟩
  | dropped hb hn => exact .inr ⟨hb, hn⟩
  | _ => simp_all [Status.reset]

theorem StatusMove.err_falls (h1 : s.status.err = true) (h0 : st.err = false) :
    assertNext s ∨ ∃ v, v.getLsbD 2 = true ∧ writeNext s .status v := by
  cases hm with
  | reset hn => exact .inl hn
  | writeClear v hn h =>
    refine .inr ⟨v, ?_, hn⟩
    by_contra hv
    rw [h, statusWriteClear_err, if_neg hv] at h0
    exact absurd (h0.symm.trans h1) (by decide)
  | _ => simp_all [completedStatus]

theorem StatusMove.errcode_moves (hne : st.errcode ≠ s.status.errcode) :
    (assertNext s ∧ st.errcode = 0) ∨
    (engineNext s ∧ pending s s.pend ∧ st.err = true ∧ ∃ e, e ≠ .busy ∧ st.errcode = errorCode e) ∨
    (s.status.busy = true ∧ st.err = true ∧ st.errcode = 4 ∧ guardedWriteNext s) ∨
    (st.errcode = 0 ∧ ∃ v, v.getLsbD 2 = true ∧ writeNext s .status v) := by
  cases hm with
  | reset hn h => exact .inl ⟨hn, by rw [h]; rfl⟩
  | completed hn hp h =>
    obtain ⟨-, -, ⟨-, hcode⟩ | ⟨herr, he⟩⟩ := h
    · exact absurd hcode hne
    · exact .inr (.inl ⟨hn, hp, herr, he⟩)
  | dropped hb hn h => exact .inr (.inr (.inl ⟨hb, by rw [h]; rfl, by rw [h]; rfl, hn⟩))
  | writeClear v hn h =>
    by_cases hv : v.getLsbD 2 = true
    · exact .inr (.inr (.inr ⟨by rw [h, statusWriteClear_errcode, if_pos hv], v, hv, hn⟩))
    · rw [h, statusWriteClear_errcode, if_neg hv] at hne
      exact absurd rfl hne
  | _ => simp_all

end

/-! ### The statement -/

/-- Settles O41: `step_status` says how the step wrote STATUS, and each flag which of those ways move it. -/
theorem flagsMoveOnlyByTheirRules : Obligations.FlagsMoveOnlyByTheirRules := fun _ _ h =>
  have hm := step_status h
  ⟨hm.busy_rises, hm.busy_falls, hm.done_rises, hm.done_falls, hm.err_rises, hm.err_falls, hm.errcode_moves⟩

end Sys2Proof.Machine
end

section
/-! PROOFS. Where a command stops (spec/43_round_engine.md R212; spec/00_scope.md R7), and that from a state with the invariant
none does: KEY_VALID = 1 then means that NR is 10 or 14 (`holdsSchedule`), and both stops need another NR. -/

namespace Sys2Proof.Machine

/-! ### The stops of a command -/

/-- `i` is one of the commands that run the Round Engine (43_round_engine.md R210, R211). -/
def isBlockCommand (i : Instr) : Prop := i = .encrypt ∨ i = .decrypt ∨ ∃ n, i = .encryptFinal n

/-- A block command is called outside the Round Engine's domain (R212). -/
def outOfDomain (i : Instr) (s : State) : Prop :=
  s.status.keyValid = true ∧ s.nr ≠ 10#4 ∧ s.nr ≠ 14#4 ∧ isBlockCommand i

/-- ADD_ROUND_KEY is given the index 15, which NR admits and the store does not have (00_scope.md R7). -/
def outOfStore (i : Instr) (s : State) : Prop :=
  s.status.keyValid = true ∧ s.nr = 15#4 ∧ i = .addRoundKey 15

theorem exec_of_outOfDomain {i : Instr} {s : State} (h : outOfDomain i s) :
    exec i s = .refused .roundKeysOutOfDomain := by
  obtain ⟨hk, h10, h14, hi⟩ := h
  have hdom : ¬ roundsInDomain s.nr = true := by
    rw [roundsInDomain_iff]
    exact not_or.mpr ⟨h10, h14⟩
  rcases hi with rfl | rfl | ⟨n, rfl⟩
  · rw [show exec .encrypt s = execEncrypt s from rfl, execEncrypt, requireKey_of_valid _ hk, encryptBlock, if_neg hdom]
  · rw [show exec .decrypt s = execDecrypt s from rfl, execDecrypt, requireKey_of_valid _ hk, if_neg hdom]
  · rw [show exec (.encryptFinal n) s = execEncryptFinal n s from rfl, execEncryptFinal, requireKey_of_valid _ hk,
      encryptBlock, if_neg hdom]

theorem exec_of_outOfStore {i : Instr} {s : State} (h : outOfStore i s) : exec i s = .fault .noSuchRoundKey := by
  obtain ⟨hk, hn, rfl⟩ := h
  rw [show exec (.addRoundKey 15) s = execAddRoundKey 15 s from rfl, execAddRoundKey, requireKey_of_valid _ hk, hn]
  rfl

/-- A block command in the domain, or without a key, answers a next state. -/
theorem exec_block_next {i : Instr} {s : State} (hi : isBlockCommand i) (h : ¬ outOfDomain i s) :
    ∃ t, exec i s = .next t := by
  cases hk : s.status.keyValid with
  | false =>
    refine ⟨_, exec_of_noKey ?_ hk⟩
    rcases hi with hi | hi | hi
    · exact .inl hi
    · exact .inr (.inl hi)
    · exact .inr (.inr (.inl hi))
  | true =>
    have hn : s.nr = 10#4 ∨ s.nr = 14#4 := by
      by_contra hn
      obtain ⟨h10, h14⟩ := not_or.mp hn
      exact h ⟨hk, h10, h14, hi⟩
    rcases hi with rfl | rfl | ⟨n, rfl⟩
    · exact ⟨_, exec_encrypt_of_key hk hn⟩
    · exact ⟨_, exec_decrypt_of_key hk hn⟩
    · exact ⟨_, exec_encryptFinal_of_key hk hn n⟩

/-- ADD_ROUND_KEY without a key, above NR, or at an index the store has, answers a next state. -/
theorem exec_addRoundKey_next {n : Nat} {s : State} (h : ¬ outOfStore (.addRoundKey n) s) :
    ∃ t, exec (.addRoundKey n) s = .next t := by
  cases hk : s.status.keyValid with
  | false => exact ⟨_, exec_of_noKey (.inr (.inr (.inr ⟨n, rfl⟩))) hk⟩
  | true =>
    by_cases hgt : s.nr.toNat < n
    · exact ⟨_, exec_addRoundKey_of_gt hk hgt⟩
    · have hlt : n < 15 := by
        by_contra hn
        have hbound := s.nr.isLt
        obtain rfl : n = 15 := by omega
        exact h ⟨hk, BitVec.eq_of_toNat_eq (by simp; omega), rfl⟩
      exact ⟨_, exec_addRoundKey_of_le (idx := ⟨n, hlt⟩) hk (by simpa using hgt)⟩

/-- Every command answers a next state but in the two cases above. -/
theorem exec_next {i : Instr} {s : State} (hd : ¬ outOfDomain i s) (hs : ¬ outOfStore i s) :
    ∃ t, exec i s = .next t := by
  cases i with
  | encrypt => exact exec_block_next (.inl rfl) hd
  | decrypt => exact exec_block_next (.inr (.inl rfl)) hd
  | encryptFinal n => exact exec_block_next (.inr (.inr ⟨n, rfl⟩)) hd
  | addRoundKey n => exact exec_addRoundKey_next hs
  | keyExpand =>
    cases hp : keySizeParams s.ctrl.keysize with
    | none => exact ⟨_, exec_keyExpand_of_none hp⟩
    | some p => exact ⟨_, exec_keyExpand_of_some hp⟩
  | chainReset | subBytes | invSubBytes | shiftRows | invShiftRows | mixColumns | invMixColumns => exact ⟨_, rfl⟩

theorem exec_refused_iff {i : Instr} {s : State} {r : Refusal} :
    exec i s = .refused r ↔ outOfDomain i s ∧ r = .roundKeysOutOfDomain := by
  refine ⟨fun h => ?_, fun ⟨hd, hr⟩ => hr ▸ exec_of_outOfDomain hd⟩
  by_cases hd : outOfDomain i s
  · rw [exec_of_outOfDomain hd] at h
    exact ⟨hd, (Host.Outcome.refused.inj h).symm⟩
  · by_cases hs : outOfStore i s
    · rw [exec_of_outOfStore hs] at h
      cases h
    · obtain ⟨t, ht⟩ := exec_next hd hs
      rw [ht] at h
      cases h

theorem exec_fault_iff {i : Instr} {s : State} {r : Fault} :
    exec i s = .fault r ↔ outOfStore i s ∧ r = .noSuchRoundKey := by
  refine ⟨fun h => ?_, fun ⟨hs, hr⟩ => hr ▸ exec_of_outOfStore hs⟩
  by_cases hs : outOfStore i s
  · rw [exec_of_outOfStore hs] at h
    exact ⟨hs, (Host.Outcome.fault.inj h).symm⟩
  · by_cases hd : outOfDomain i s
    · rw [exec_of_outOfDomain hd] at h
      cases h
    · obtain ⟨t, ht⟩ := exec_next hd hs
      rw [ht] at h
      cases h

/-! ### From a state with the invariant -/

/-- A valid schedule has 10 or 14 rounds (10_state.md R41). -/
theorem nr_of_holdsSchedule {s : State} (h : holdsSchedule s) : s.nr = 10#4 ∨ s.nr = 14#4 :=
  h.imp And.left And.left

theorem EngineInv.exec_next {s : State} (h : EngineInv s) (i : Instr) : ∃ t, exec i s = .next t := by
  refine Machine.exec_next ?_ ?_
  · rintro ⟨hk, h10, h14, -⟩
    exact (nr_of_holdsSchedule (h.key_valid hk)).elim h10 h14
  · rintro ⟨hk, h15, -⟩
    rcases nr_of_holdsSchedule (h.key_valid hk) with hn | hn <;> exact absurd (hn.symm.trans h15) (by decide)

theorem EngineInv.engineTurn_next {s : State} (h : EngineInv s) : ∃ t, engineTurn s = .next t := by
  cases hp : pendingWord s with
  | none => exact ⟨s, by rw [engineTurn, hp]⟩
  | some w =>
    have hpen := pending_of_pendingWord hp
    cases hd : decode w with
    | ok i => exact engineTurn_of_pending hpen hd ▸ h.exec_next i
    | error e => exact ⟨_, engineTurn_of_illegal hpen ⟨e, hd⟩⟩

/-! ### The statements -/

/-- Settles O46: `exec_refused_iff` and `exec_fault_iff`. -/
theorem stopsAreOutsideTheRoundEngineDomain : Obligations.StopsAreOutsideTheRoundEngineDomain := by
  refine fun i s => ⟨⟨?_, ?_⟩, ⟨?_, ?_⟩, fun r h => (exec_refused_iff.mp h).2, fun r h => (exec_fault_iff.mp h).2⟩
  · exact fun ⟨r, h⟩ => (exec_refused_iff.mp h).1
  · exact fun h => ⟨_, exec_of_outOfDomain h⟩
  · exact fun ⟨r, h⟩ => (exec_fault_iff.mp h).1
  · exact fun h => ⟨_, exec_of_outOfStore h⟩

/-- Settles O45: the turns of the host and of `rst` never stop, and the engine's turn is `EngineInv.engineTurn_next`. -/
theorem reachableStepsNeverStop : Obligations.ReachableStepsNeverStop := by
  intro s h
  cases hs : s.schedule with
  | nil =>
    obtain ⟨t, ht⟩ := h.engineTurn_next
    exact ⟨t, by rw [step, hs]; exact ht⟩
  | cons turn rest =>
    have h' : EngineInv { s with schedule := rest } := h.of_sameEngine rfl
    cases turn with
    | engine =>
      obtain ⟨t, ht⟩ := h'.engineTurn_next
      exact ⟨t, by rw [step, hs]; exact ht⟩
    | host a => exact ⟨_, by rw [step, hs]⟩
    | assertRst => exact ⟨_, by rw [step, hs]⟩
    | releaseRst => exact ⟨_, by rw [step, hs]⟩

end Sys2Proof.Machine
end

section
/-! PROOFS. ENCRYPT against the single-transform commands (spec/43_round_engine.md R210; 95_test_vectors.md P3).  After each
command and the copy of DOUT to DIN the state is `withBlock S s` for the matrix `S` reached so far, so a list of commands
runs as its transforms do on `S`, round by round. -/

namespace Sys2Proof.Machine

/-- The state `s` after a transform command with result `S`, DOUT copied to DIN. -/
def withBlock (S : ByteMatrix) (s : State) : State := copyDout (complete (setDout (serialize S) s))

@[simp] theorem load_dinBlock_withBlock (S : ByteMatrix) (s : State) : load (dinBlock (withBlock S s)) = S := by
  change load (blockOfWords (wordsOfBlock (serialize S))) = S
  rw [blockOfWords_wordsOfBlock, load_serialize]

@[simp] theorem withBlock_rk (S : ByteMatrix) (s : State) : (withBlock S s).rk = s.rk := rfl

@[simp] theorem withBlock_nr (S : ByteMatrix) (s : State) : (withBlock S s).nr = s.nr := rfl

@[simp] theorem withBlock_keyValid (S : ByteMatrix) (s : State) :
    (withBlock S s).status.keyValid = s.status.keyValid := rfl

/-- Only the last matrix is left. -/
@[simp] theorem withBlock_withBlock (S T : ByteMatrix) (s : State) : withBlock T (withBlock S s) = withBlock T s := rfl

/-- A transform command replaces the matrix by its transform. -/
theorem runCopying_transform {i : Instr} {f : ByteMatrix → ByteMatrix} {s : State}
    (h : exec i s = .next (transformDin f s)) (is : List Instr) :
    runCopying (i :: is) s = runCopying is (withBlock (f (load (dinBlock s))) s) :=
  runCopying_cons h is

/-- With a key, ADD_ROUND_KEY of an index up to NR that the store has adds that entry of RK (R162). -/
theorem exec_addRoundKey_list {s : State} {n : Nat} (hk : s.status.keyValid = true) (hn : n ≤ s.nr.toNat) (h15 : n < 15) :
    exec (.addRoundKey n) s = .next (transformDin (fun S => addRoundKey S s.rk.toList n) s) := by
  rw [show exec (.addRoundKey n) s = execAddRoundKey n s from rfl, execAddRoundKey, requireKey_of_valid _ hk,
    if_neg (by omega), if_pos h15]

section
variable {s : State} (hk : s.status.keyValid = true) (hnr : s.nr.toNat < 15)

theorem runCopying_subBytes_shiftRows (S : ByteMatrix) (is : List Instr) :
    runCopying (.subBytes :: .shiftRows :: is) (withBlock S s) =
      runCopying is (withBlock (shiftRows (substitute S)) s) := by
  rw [runCopying_transform (exec_subBytes _), runCopying_transform (exec_shiftRows _)]
  simp only [load_dinBlock_withBlock, withBlock_withBlock]

include hk hnr

theorem runCopying_addRoundKey {n : Nat} (hn : n ≤ s.nr.toNat) (S : ByteMatrix) (is : List Instr) :
    runCopying (.addRoundKey n :: is) (withBlock S s) =
      runCopying is (withBlock (addRoundKey S s.rk.toList n) s) := by
  have hkey : (withBlock S s).status.keyValid = true := by rw [withBlock_keyValid, hk]
  have hle : n ≤ (withBlock S s).nr.toNat := by rwa [withBlock_nr]
  rw [runCopying_transform (exec_addRoundKey_list hkey hle (by omega)), load_dinBlock_withBlock, withBlock_rk,
    withBlock_withBlock]

/-- The four commands of a middle round run `cipherRound` (R210). -/
theorem runCopying_round {n : Nat} (hn : n ≤ s.nr.toNat) (S : ByteMatrix) (is : List Instr) :
    runCopying (.subBytes :: .shiftRows :: .mixColumns :: .addRoundKey n :: is) (withBlock S s) =
      runCopying is (withBlock (cipherRound s.rk.toList S n) s) := by
  rw [runCopying_subBytes_shiftRows, runCopying_transform (exec_mixColumns _), load_dinBlock_withBlock,
    withBlock_withBlock, runCopying_addRoundKey hk hnr hn]
  rfl

/-- The middle rounds, by induction on their list. -/
theorem runCopying_rounds {ns : List Nat} (hns : ∀ n ∈ ns, n ≤ s.nr.toNat) (S : ByteMatrix) (is : List Instr) :
    runCopying (ns.flatMap (fun n => [.subBytes, .shiftRows, .mixColumns, .addRoundKey n]) ++ is) (withBlock S s) =
      runCopying is (withBlock (ns.foldl (cipherRound s.rk.toList) S) s) := by
  induction ns generalizing S with
  | nil => rfl
  | cons n ns ih =>
    obtain ⟨hn, hns⟩ := List.forall_mem_cons.mp hns
    exact (runCopying_round hk hnr hn S _).trans (ih hns _)

/-- The commands of the forward cipher leave what `cipher` computes from DIN (R210). -/
theorem runCopying_roundCommands : runCopying (roundCommands s.nr.toNat) s =
    some (withBlock (cipher (load (dinBlock s)) s.rk.toList s.nr.toNat) s) := by
  have hmiddle : ∀ n ∈ List.range' 1 (s.nr.toNat - 1), n ≤ s.nr.toNat := fun n hn => by
    rw [List.mem_range'_1] at hn
    omega
  rw [roundCommands, runCopying_transform (exec_addRoundKey_list hk (Nat.zero_le _) (by decide)),
    runCopying_rounds hk hnr hmiddle, runCopying_subBytes_shiftRows, runCopying_addRoundKey hk hnr le_rfl]
  rfl

end

/-- Settles O55: both ways DOUT is the serialized `cipher` of DIN under RK, and no transform command writes CV or RK. -/
theorem transformCommandsComputeEncrypt : Obligations.TransformCommandsComputeEncrypt := by
  intro s t hk hn hm ht
  have hnr : s.nr.toNat < 15 := by
    rcases hn with h | h <;> rw [h] <;> decide
  refine ⟨_, runCopying_roundCommands hk hnr, ?_, rfl, rfl⟩
  rw [exec_encrypt_of_key hk hn, hm] at ht
  obtain rfl := Host.Outcome.next.inj ht
  rfl

end Sys2Proof.Machine
end

section
/-! PROOFS. While KEY_VALID is 0 nothing depends on RK and NR (spec/10_state.md section 7).  Two states that differ in them are
`s` and `withRoundKeys rk nr s`.  Every transition but KEY_EXPAND and `rst` commutes with `withRoundKeys`, and those two
overwrite RK and NR with values that do not depend on them. -/

namespace Sys2Proof.Machine

/-- `s` with other contents of RK and NR. -/
def withRoundKeys (rk : Vector ByteMatrix 15) (nr : BitVec 4) (s : State) : State := { s with rk := rk, nr := nr }

theorem sameButSchedule_iff {s t : State} : sameButSchedule s t ↔ ∃ rk nr, t = withRoundKeys rk nr s := by
  refine ⟨fun h => ⟨_, _, h⟩, ?_⟩
  rintro ⟨rk, nr, rfl⟩
  rfl

section
variable (rk : Vector ByteMatrix 15) (nr : BitVec 4) (s : State)

@[simp] theorem withRoundKeys_status : (withRoundKeys rk nr s).status = s.status := rfl

/-! ### Host accesses -/

theorem writeReg_withRoundKeys (r : Reg) (v : Word) :
    writeReg r v (withRoundKeys rk nr s) = withRoundKeys rk nr (writeReg r v s) := by
  cases r with
  | status | dout | reserved => rfl
  | ctrl | cmd | key | din =>
    cases hb : s.status.busy <;> simp only [writeReg, unlessBusy, withRoundKeys_status, hb] <;> rfl

theorem readReg_withRoundKeys (r : Reg) :
    readReg r (withRoundKeys rk nr s) = ((readReg r s).1, withRoundKeys rk nr (readReg r s).2) := by
  cases r with
  | ctrl | status | cmd | key | din | reserved => rfl
  | dout => cases hb : s.status.busy <;> simp only [readReg, withRoundKeys_status, hb] <;> rfl

theorem windowRead_withRoundKeys (off width : Nat) : windowRead off width (withRoundKeys rk nr s) =
    ((windowRead off width s).1, withRoundKeys rk nr (windowRead off width s).2) := by
  by_cases ha : admitted off width = true
  · by_cases hr : s.rst = true
    · have hr' : (withRoundKeys rk nr s).rst = true := hr
      simp only [windowRead, if_pos ha, if_pos hr, if_pos hr']
      rfl
    · have hr' : ¬ (withRoundKeys rk nr s).rst = true := hr
      simp only [windowRead, if_pos ha, if_neg hr, if_neg hr', readReg_withRoundKeys]
  · simp only [windowRead, if_neg ha]

theorem windowWrite_withRoundKeys (off width : Nat) (v : Word) : windowWrite off width v (withRoundKeys rk nr s) =
    ((windowWrite off width v s).1, withRoundKeys rk nr (windowWrite off width v s).2) := by
  by_cases ha : admitted off width = true
  · by_cases hr : s.rst = true
    · have hr' : (withRoundKeys rk nr s).rst = true := hr
      simp only [windowWrite, if_pos ha, if_pos hr, if_pos hr']
    · have hr' : ¬ (withRoundKeys rk nr s).rst = true := hr
      simp only [windowWrite, if_pos ha, if_neg hr, if_neg hr', writeReg_withRoundKeys]
  · simp only [windowWrite, if_neg ha]

/-- A host access is answered alike, and passes RK and NR through. -/
theorem hostAccess_withRoundKeys (a : Access) :
    hostAccess a (withRoundKeys rk nr s) = withRoundKeys rk nr (hostAccess a s) := by
  cases a with
  | read addr width =>
    by_cases hin : inWindow addr = true
    · simp only [hostAccess, answerAccess, if_pos hin, windowRead_withRoundKeys]
      rfl
    · simp only [hostAccess, answerAccess, if_neg hin]
      rfl
  | write addr width v =>
    by_cases hin : inWindow addr = true
    · simp only [hostAccess, answerAccess, if_pos hin, windowWrite_withRoundKeys]
      rfl
    · simp only [hostAccess, answerAccess, if_neg hin]
      rfl

end

/-- No host access sets KEY_VALID (R34). -/
theorem hostAccess_keyValid_of_invalid (a : Access) {s : State} (hk : s.status.keyValid = false) :
    (hostAccess a s).status.keyValid = false := by
  rcases hostAccess_keyValid a s with h | ⟨-, -, _, _, _, -, -, -, -, h⟩
  · rw [h, hk]
  · exact h

/-! ### Commands and steps -/

/-- `r` and `r'` are next states that differ at most in RK and NR, and not at all once KEY_VALID is 1. -/
def agree (r r' : Result) : Prop :=
  ∃ s t, r = .next s ∧ r' = .next t ∧ sameButSchedule s t ∧ (s.status.keyValid = true → s = t)

theorem agree_refl (s : State) : agree (.next s) (.next s) := ⟨s, s, rfl, rfl, rfl, fun _ => rfl⟩

theorem agree_withRoundKeys (rk : Vector ByteMatrix 15) (nr : BitVec 4) {s : State} (hk : s.status.keyValid = false) :
    agree (.next s) (.next (withRoundKeys rk nr s)) :=
  ⟨s, _, rfl, rfl, rfl, fun hv => absurd (hk.symm.trans hv) (by decide)⟩

section
variable (rk : Vector ByteMatrix 15) (nr : BitVec 4) {s : State} (hk : s.status.keyValid = false)
include hk

/-- Without a key, a command that needs one raises E_NO_KEY before it reads RK or NR. -/
theorem agree_exec_of_needsKey {i : Instr} (hi : needsKey i) :
    agree (exec i s) (exec i (withRoundKeys rk nr s)) := by
  rw [exec_of_noKey hi hk, exec_of_noKey (s := withRoundKeys rk nr s) hi hk]
  exact agree_withRoundKeys rk nr (s := raise .noKey s) hk

theorem agree_exec (i : Instr) : agree (exec i s) (exec i (withRoundKeys rk nr s)) := by
  cases i with
  | keyExpand =>
    cases hp : keySizeParams s.ctrl.keysize with
    | none =>
      rw [exec_keyExpand_of_none hp, exec_keyExpand_of_none (s := withRoundKeys rk nr s) hp]
      exact agree_withRoundKeys rk nr (s := raise .keySize s) rfl
    | some p =>
      rw [exec_keyExpand_of_some hp, exec_keyExpand_of_some (s := withRoundKeys rk nr s) hp]
      exact agree_refl _
  | encrypt => exact agree_exec_of_needsKey rk nr hk (.inl rfl)
  | decrypt => exact agree_exec_of_needsKey rk nr hk (.inr (.inl rfl))
  | encryptFinal n => exact agree_exec_of_needsKey rk nr hk (.inr (.inr (.inl ⟨n, rfl⟩)))
  | addRoundKey n => exact agree_exec_of_needsKey rk nr hk (.inr (.inr (.inr ⟨n, rfl⟩)))
  | chainReset => exact agree_withRoundKeys rk nr (s := complete (setCv zeroMatrix s)) hk
  | subBytes => exact agree_withRoundKeys rk nr (s := transformDin substitute s) hk
  | invSubBytes => exact agree_withRoundKeys rk nr (s := transformDin inverseSubstitute s) hk
  | shiftRows => exact agree_withRoundKeys rk nr (s := transformDin shiftRows s) hk
  | invShiftRows => exact agree_withRoundKeys rk nr (s := transformDin inverseShiftRows s) hk
  | mixColumns => exact agree_withRoundKeys rk nr (s := transformDin mixColumns s) hk
  | invMixColumns => exact agree_withRoundKeys rk nr (s := transformDin inverseMixColumns s) hk

theorem agree_engineTurn : agree (engineTurn s) (engineTurn (withRoundKeys rk nr s)) := by
  cases hp : pendingWord s with
  | none =>
    have hp' : pendingWord (withRoundKeys rk nr s) = none := hp
    rw [engineTurn, hp, engineTurn, hp']
    exact agree_withRoundKeys rk nr hk
  | some w =>
    have hpen := pending_of_pendingWord hp
    have hpen' : pending (withRoundKeys rk nr s) w := hpen
    cases hd : decode w with
    | ok i =>
      rw [engineTurn_of_pending hpen hd, engineTurn_of_pending hpen' hd]
      exact agree_exec rk nr hk i
    | error e =>
      rw [engineTurn_of_illegal hpen ⟨e, hd⟩, engineTurn_of_illegal hpen' ⟨e, hd⟩]
      exact agree_withRoundKeys rk nr (s := raise .illegalCmd s) hk

theorem agree_step : agree (step s) (step (withRoundKeys rk nr s)) := by
  cases hs : s.schedule with
  | nil =>
    have hs' : (withRoundKeys rk nr s).schedule = [] := hs
    rw [step, hs, step, hs']
    exact agree_engineTurn rk nr hk
  | cons turn rest =>
    have hs' : (withRoundKeys rk nr s).schedule = turn :: rest := hs
    rw [step, hs, step, hs']
    cases turn with
    | engine => exact agree_engineTurn rk nr (s := { s with schedule := rest }) hk
    | host a =>
      have hk' := hostAccess_keyValid_of_invalid a (s := { s with schedule := rest }) hk
      have hagree := agree_withRoundKeys rk nr hk'
      rw [← hostAccess_withRoundKeys] at hagree
      exact hagree
    | assertRst => exact agree_refl _
    | releaseRst => exact agree_withRoundKeys rk nr (s := releaseReset { s with schedule := rest }) hk

end

/-! ### The statement -/

/-- Settles O47: `agree_step`, for any other contents of RK and NR. -/
theorem unspecifiedScheduleIsUnobservable : Obligations.UnspecifiedScheduleIsUnobservable := by
  intro s t hst hk
  obtain ⟨rk, nr, rfl⟩ := sameButSchedule_iff.mp hst
  exact agree_step rk nr hk

end Sys2Proof.Machine
end
